-- ==== Sys2Proof/Word.lean ====
section
/-! DEFINITION. The values the block computes with, at the widths of 00_scope.md section 6: memory bytes
and general registers are 8 bits, I, pc, stack entries and instruction words are 16 bits, an
address literal is 12 bits, and a register selector is one of sixteen. -/
namespace Sys2Proof

/-- A memory byte or the contents of a general register (00_scope.md section 6). -/
abbrev Byte := BitVec 8

/-- A 16-bit value: an instruction word, I, pc or a stack entry (00_scope.md section 6). -/
abbrev Word := BitVec 16

/-- The address literal NNN (30_encoding.md R72). -/
abbrev Addr12 := BitVec 12

/-- The row count N of DXYN (30_encoding.md R72). -/
abbrev Rows := BitVec 4

/-- A register selector: field value k selects Vk (10_state.md R20). -/
abbrev Reg := Fin 16

end Sys2Proof
end

