-- ==== Sys2Proof/Config.lean ====
section
/-! DEFINITION. What an implementation fixes (the parameters of 00_scope.md section 6) and the free
values: the step inputs that the host has not fixed. -/
namespace Sys2Proof.Config

/-- P_9XY0: is 9XY0 the instruction SNE Vx, Vy, or an Unknown word (00_scope.md section 6, D2)? -/
inductive P9XY0 where
  | sne
  | unknown
  deriving DecidableEq, Repr

/-- P_0NNN: is 0NNN the instruction SYS, or an Unknown word (00_scope.md section 6, D3)? -/
inductive P0NNN where
  | sysNop
  | unknown
  deriving DecidableEq, Repr

/-- The two decoding parameters of 00_scope.md section 6. -/
structure Params where
  p9XY0 : P9XY0
  p0NNN : P0NNN
  deriving DecidableEq, Repr

/-- The defaults, which the parameters take unless a rule says otherwise (00_scope.md section 6).
PRESUMED (log entry 4): the spec marks D2 and D3 as general knowledge. -/
def params : Params := { p9XY0 := .sne, p0NNN := .sysNop }

/-- The parameter FONT at its default: 16 glyphs of 5 bytes, the glyph of digit d at 5*d
(20_memory.md R52, R66).
PRESUMED (log entry 5): the spec marks the glyph bytes as general knowledge. -/
def font : List Byte :=
  [0xF0, 0x90, 0x90, 0x90, 0xF0, 0x20, 0x60, 0x20, 0x20, 0x70,
   0xF0, 0x10, 0xF0, 0x80, 0xF0, 0xF0, 0x10, 0xF0, 0x10, 0xF0] ++
  [0x90, 0x90, 0xF0, 0x10, 0x10, 0xF0, 0x80, 0xF0, 0x10, 0xF0,
   0xF0, 0x80, 0xF0, 0x90, 0xF0, 0xF0, 0x10, 0x20, 0x40, 0x40] ++
  [0xF0, 0x90, 0xF0, 0x90, 0xF0, 0xF0, 0x90, 0xF0, 0x10, 0xF0,
   0xF0, 0x90, 0xF0, 0x90, 0x90, 0xE0, 0x90, 0xE0, 0x90, 0xE0] ++
  [0xF0, 0x80, 0x80, 0x80, 0xF0, 0xE0, 0x90, 0x90, 0x90, 0xE0,
   0xF0, 0x80, 0xF0, 0x80, 0xF0, 0xF0, 0x80, 0xF0, 0x80, 0x80]

/-- FREE VALUE: the key snapshot `keys_in` of the step that takes input number n, where the host
has not fixed it (00_scope.md R4; log entry 1). -/
opaque keysIn : Nat → BitVec 16

/-- FREE VALUE: the random byte `rnd` of the step that takes input number n, where the host has
not fixed it; "a free draw of each step, under no law" (00_scope.md R4; log entry 1). -/
opaque randomByte : Nat → Byte

end Sys2Proof.Config
end

