-- ==== Sys2Proof/Syntax.lean ====
section
/-! DEFINITION. The 35 instructions of spec/opcode_table.json, one constructor a row (30_encoding.md
R73, R74). A word that is none of them is `Unknown`: no instruction, but a word the step passes
over with a diagnostic (40_engine.md R106; `Machine.execUnknown`). -/
namespace Sys2Proof

/-- An instruction with its operand fields: register selectors x and y, byte literal nn, address
literal nnn, row count n (30_encoding.md R71, R80). -/
inductive Instr where
  /-- 0NNN `SYS nnn` (41_flow.md R120). -/
  | sys (nnn : Addr12)
  /-- 00E0 `CLS` (45_display.md R210). -/
  | cls
  /-- 00EE `RET` (41_flow.md R121). -/
  | ret
  /-- 1NNN `JP nnn` (41_flow.md R122). -/
  | jp (nnn : Addr12)
  /-- 2NNN `CALL nnn` (41_flow.md R123). -/
  | call (nnn : Addr12)
  /-- 3XNN `SE Vx, nn` (42_skip.md R140). -/
  | seImm (x : Reg) (nn : Byte)
  /-- 4XNN `SNE Vx, nn` (42_skip.md R141). -/
  | sneImm (x : Reg) (nn : Byte)
  /-- 5XY0 `SE Vx, Vy` (42_skip.md R142). -/
  | seReg (x y : Reg)
  /-- 6XNN `LD Vx, nn` (43_alu.md R160). -/
  | ldImm (x : Reg) (nn : Byte)
  /-- 7XNN `ADD Vx, nn` (43_alu.md R161). -/
  | addImm (x : Reg) (nn : Byte)
  /-- 8XY0 `LD Vx, Vy` (43_alu.md R162). -/
  | ldReg (x y : Reg)
  /-- 8XY1 `OR Vx, Vy` (43_alu.md R163). -/
  | orReg (x y : Reg)
  /-- 8XY2 `AND Vx, Vy` (43_alu.md R164). -/
  | andReg (x y : Reg)
  /-- 8XY3 `XOR Vx, Vy` (43_alu.md R165). -/
  | xorReg (x y : Reg)
  /-- 8XY4 `ADD Vx, Vy` (43_alu.md R166). -/
  | addReg (x y : Reg)
  /-- 8XY5 `SUB Vx, Vy` (43_alu.md R167). -/
  | subReg (x y : Reg)
  /-- 8XY6 `SHR Vx`; y is decoded and ignored (43_alu.md R168; 30_encoding.md R77). -/
  | shr (x y : Reg)
  /-- 8XY7 `SUBN Vx, Vy` (43_alu.md R169). -/
  | subnReg (x y : Reg)
  /-- 8XYE `SHL Vx`; y is decoded and ignored (43_alu.md R170; 30_encoding.md R77). -/
  | shl (x y : Reg)
  /-- 9XY0 `SNE Vx, Vy` (42_skip.md R143). -/
  | sneReg (x y : Reg)
  /-- ANNN `LD I, nnn` (44_index_memory.md R190). -/
  | ldI (nnn : Addr12)
  /-- BNNN `JP V0, nnn` (41_flow.md R124). -/
  | jpV0 (nnn : Addr12)
  /-- CXNN `RND Vx, nn` (43_alu.md R171). -/
  | rnd (x : Reg) (nn : Byte)
  /-- DXYN `DRW Vx, Vy, n` (45_display.md R212). -/
  | drw (x y : Reg) (n : Rows)
  /-- EX9E `SKP Vx` (46_timers_keys.md R230). -/
  | skp (x : Reg)
  /-- EXA1 `SKNP Vx` (46_timers_keys.md R231). -/
  | sknp (x : Reg)
  /-- FX07 `LD Vx, DT` (46_timers_keys.md R232). -/
  | ldXDt (x : Reg)
  /-- FX0A `LD Vx, K` (46_timers_keys.md R236). -/
  | ldXK (x : Reg)
  /-- FX15 `LD DT, Vx` (46_timers_keys.md R233). -/
  | ldDtX (x : Reg)
  /-- FX18 `LD ST, Vx` (46_timers_keys.md R234). -/
  | ldStX (x : Reg)
  /-- FX1E `ADD I, Vx` (44_index_memory.md R192). -/
  | addIX (x : Reg)
  /-- FX29 `LD F, Vx` (44_index_memory.md R194). -/
  | ldFX (x : Reg)
  /-- FX33 `LD B, Vx` (44_index_memory.md R196). -/
  | ldBX (x : Reg)
  /-- FX55 `LD [I], Vx` (44_index_memory.md R198). -/
  | ldMemX (x : Reg)
  /-- FX65 `LD Vx, [I]` (44_index_memory.md R200). -/
  | ldXMem (x : Reg)
  deriving DecidableEq, Repr

end Sys2Proof
end

