-- ==== Sys2Proof/WellFormed.lean ====
section
/-! DEFINITION. Which instructions have an encoding of their own. Field widths are in the types of
`Instr`; the one relation left is that CLS and RET take two words out of SYS (30_encoding.md R73). -/
namespace Sys2Proof

/-- Every instruction is well formed but SYS 0x0E0 and SYS 0x0EE, whose words are CLS and RET:
"In family 0 the fixed patterns 00E0 and 00EE take precedence over 0NNN" (30_encoding.md R73). -/
def WellFormed : Instr → Bool
  | .sys nnn => nnn != 0x0E0 && nnn != 0x0EE
  | .cls | .ret | .jp _ | .call _ => true
  | .seImm _ _ | .sneImm _ _ | .seReg _ _ | .sneReg _ _ => true
  | .ldImm _ _ | .addImm _ _ | .ldReg _ _ | .orReg _ _ | .andReg _ _ | .xorReg _ _ => true
  | .addReg _ _ | .subReg _ _ | .shr _ _ | .subnReg _ _ | .shl _ _ | .rnd _ _ => true
  | .ldI _ | .jpV0 _ | .drw _ _ _ | .skp _ | .sknp _ => true
  | .ldXDt _ | .ldXK _ | .ldDtX _ | .ldStX _ | .addIX _ | .ldFX _ => true
  | .ldBX _ | .ldMemX _ | .ldXMem _ => true

end Sys2Proof
end

