-- ==== Sys2Proof/Decode.lean ====
section
/-! DEFINITION. The decoder of 30_encoding.md R73, total on every 16-bit word and on any bytes, and
the encoder written from the same layouts (R80). -/
namespace Sys2Proof

/-- Why bytes are not an instruction. -/
inductive DecodeError where
  /-- The word matches no pattern: `Unknown` (30_encoding.md R73, R75). The step passes over it. -/
  | unknown (w : Word)
  /-- Fewer than two bytes. Never met by the step, whose fetch always has two (40_engine.md R101). -/
  | truncated
  deriving DecidableEq, Repr

/-! Fields of a word (30_encoding.md R71). -/

/-- F = w[15:12], the family, as a number below 16. -/
def fieldF (w : Word) : Nat := (w.extractLsb' 12 4).toNat
/-- X = w[11:8]. -/
def fieldX (w : Word) : Reg := (w.extractLsb' 8 4).toFin
/-- Y = w[7:4]. -/
def fieldY (w : Word) : Reg := (w.extractLsb' 4 4).toFin
/-- N = w[3:0]. -/
def fieldN (w : Word) : Rows := w.extractLsb' 0 4
/-- NN = w[7:0]. -/
def fieldNN (w : Word) : Byte := w.extractLsb' 0 8
/-- NNN = w[11:0]. -/
def fieldNNN (w : Word) : Addr12 := w.extractLsb' 0 12

/-- Family 0: the two fixed words first, then SYS (30_encoding.md R73). -/
def decodeFamily0 (p : Config.Params) (w : Word) : Option Instr :=
  if w = 0x00E0 then some .cls
  else if w = 0x00EE then some .ret
  else if p.p0NNN = .sysNop then some (.sys (fieldNNN w))
  else none

/-- Family 8, by low nibble (30_encoding.md R73). -/
def decodeFamily8 (w : Word) : Option Instr :=
  let x := fieldX w
  let y := fieldY w
  if fieldN w = 0x0 then some (.ldReg x y)
  else if fieldN w = 0x1 then some (.orReg x y)
  else if fieldN w = 0x2 then some (.andReg x y)
  else if fieldN w = 0x3 then some (.xorReg x y)
  else if fieldN w = 0x4 then some (.addReg x y)
  else if fieldN w = 0x5 then some (.subReg x y)
  else if fieldN w = 0x6 then some (.shr x y)
  else if fieldN w = 0x7 then some (.subnReg x y)
  else if fieldN w = 0xE then some (.shl x y)
  else none

/-- Family E, by low byte (30_encoding.md R73). -/
def decodeFamilyE (w : Word) : Option Instr :=
  if fieldNN w = 0x9E then some (.skp (fieldX w))
  else if fieldNN w = 0xA1 then some (.sknp (fieldX w))
  else none

/-- Family F, by low byte (30_encoding.md R73). -/
def decodeFamilyF (w : Word) : Option Instr :=
  let x := fieldX w
  if fieldNN w = 0x07 then some (.ldXDt x)
  else if fieldNN w = 0x0A then some (.ldXK x)
  else if fieldNN w = 0x15 then some (.ldDtX x)
  else if fieldNN w = 0x18 then some (.ldStX x)
  else if fieldNN w = 0x1E then some (.addIX x)
  else if fieldNN w = 0x29 then some (.ldFX x)
  else if fieldNN w = 0x33 then some (.ldBX x)
  else if fieldNN w = 0x55 then some (.ldMemX x)
  else if fieldNN w = 0x65 then some (.ldXMem x)
  else none

/-- The decoder under given parameters (30_encoding.md R73); `none` is `Unknown`. -/
def decodeWith (p : Config.Params) (w : Word) : Option Instr :=
  match fieldF w with
  | 0x0 => decodeFamily0 p w
  | 0x1 => some (.jp (fieldNNN w))
  | 0x2 => some (.call (fieldNNN w))
  | 0x3 => some (.seImm (fieldX w) (fieldNN w))
  | 0x4 => some (.sneImm (fieldX w) (fieldNN w))
  | 0x5 => if fieldN w = 0x0 then some (.seReg (fieldX w) (fieldY w)) else none
  | 0x6 => some (.ldImm (fieldX w) (fieldNN w))
  | 0x7 => some (.addImm (fieldX w) (fieldNN w))
  | 0x8 => decodeFamily8 w
  | 0x9 => if fieldN w = 0x0 ∧ p.p9XY0 = .sne then some (.sneReg (fieldX w) (fieldY w)) else none
  | 0xA => some (.ldI (fieldNNN w))
  | 0xB => some (.jpV0 (fieldNNN w))
  | 0xC => some (.rnd (fieldX w) (fieldNN w))
  | 0xD => some (.drw (fieldX w) (fieldY w) (fieldN w))
  | 0xE => decodeFamilyE w
  | 0xF => decodeFamilyF w
  | _ => none  -- no nibble is above 0xF

/-- The decoder under the default parameters. -/
def decode (w : Word) : Option Instr := decodeWith Config.params w

/-- The word of two bytes, the first one high (20_memory.md R55). -/
def wordOfBytes (hi lo : Byte) : Word := hi ++ lo

/-- The two bytes of a word as memory holds them, the high one first (20_memory.md R55). -/
def bytesOfWord (w : Word) : List Byte := [w.extractLsb' 8 8, w.extractLsb' 0 8]

/-- Decoding a list of bytes: the instruction and the rest of the list, or why there is none.
Every instruction is two bytes (30_encoding.md R70). -/
def decodeBytes (p : Config.Params) : List Byte → Except DecodeError (Instr × List Byte)
  | hi :: lo :: rest =>
    match decodeWith p (wordOfBytes hi lo) with
    | some i => .ok (i, rest)
    | none => .error (.unknown (wordOfBytes hi lo))
  | _ => .error .truncated

/-- The instruction the decoder reads from a word whose bits the opcode table numbers, laid out as
memory holds it; bits above `nbits` are 0. -/
def decodeTableWord (nbits w : Nat) : Option Instr :=
  match decodeBytes Config.params (bytesOfWord (BitVec.ofNat 16 (w % 2 ^ nbits))) with
  | .ok (i, _) => some i
  | .error _ => none

/-! The encoder, by layout (30_encoding.md R80). -/

/-- Layout `nnn`: F, NNN. -/
def encNNN (f : BitVec 4) (nnn : Addr12) : Word := f ++ nnn
/-- Layout `xnn`, and layout `x` with its literal low byte: F, X, NN. -/
def encXNN (f : BitVec 4) (x : Reg) (nn : Byte) : Word := f ++ BitVec.ofFin (w := 4) x ++ nn
/-- Layout `xyn`, and layout `xy` with its literal low nibble: F, X, Y, N. -/
def encXYN (f : BitVec 4) (x y : Reg) (n : BitVec 4) : Word :=
  f ++ BitVec.ofFin (w := 4) x ++ BitVec.ofFin (w := 4) y ++ n

/-- The word of an instruction (30_encoding.md R74, R80; opcode_table.json). -/
def encode : Instr → Word
  | .sys nnn => encNNN 0x0 nnn
  | .cls => 0x00E0
  | .ret => 0x00EE
  | .jp nnn => encNNN 0x1 nnn
  | .call nnn => encNNN 0x2 nnn
  | .seImm x nn => encXNN 0x3 x nn
  | .sneImm x nn => encXNN 0x4 x nn
  | .seReg x y => encXYN 0x5 x y 0x0
  | .ldImm x nn => encXNN 0x6 x nn
  | .addImm x nn => encXNN 0x7 x nn
  | .ldReg x y => encXYN 0x8 x y 0x0
  | .orReg x y => encXYN 0x8 x y 0x1
  | .andReg x y => encXYN 0x8 x y 0x2
  | .xorReg x y => encXYN 0x8 x y 0x3
  | .addReg x y => encXYN 0x8 x y 0x4
  | .subReg x y => encXYN 0x8 x y 0x5
  | .shr x y => encXYN 0x8 x y 0x6
  | .subnReg x y => encXYN 0x8 x y 0x7
  | .shl x y => encXYN 0x8 x y 0xE
  | .sneReg x y => encXYN 0x9 x y 0x0
  | .ldI nnn => encNNN 0xA nnn
  | .jpV0 nnn => encNNN 0xB nnn
  | .rnd x nn => encXNN 0xC x nn
  | .drw x y n => encXYN 0xD x y n
  | .skp x => encXNN 0xE x 0x9E
  | .sknp x => encXNN 0xE x 0xA1
  | .ldXDt x => encXNN 0xF x 0x07
  | .ldXK x => encXNN 0xF x 0x0A
  | .ldDtX x => encXNN 0xF x 0x15
  | .ldStX x => encXNN 0xF x 0x18
  | .addIX x => encXNN 0xF x 0x1E
  | .ldFX x => encXNN 0xF x 0x29
  | .ldBX x => encXNN 0xF x 0x33
  | .ldMemX x => encXNN 0xF x 0x55
  | .ldXMem x => encXNN 0xF x 0x65

end Sys2Proof
end

