-- ==== Sys2Proof/Machine/State.lean ====
section
/-! DEFINITION. The state of the block (10_state.md), its reset value at power-on
(70_reset_and_hazards.md R300, R301), and the reasons a host action can stop the model. -/
namespace Sys2Proof.Machine

/-- The memory image: (address, byte) pairs, addresses rising, no pair equal to what an unlisted
address reads as (`Memory.unlisted`). Read and written by `Memory.read` and `Memory.write` only. -/
abbrev Memory := List Host.Cell

/-- The framebuffer, a 64 x 32 grid of one-bit cells (10_state.md R38): row y of 32, in which bit x
is the cell at column x. The flat index y*64 + x is `Framebuffer.flat` (log entry 11). -/
abbrev Framebuffer := Vector (BitVec 64) 32

/-- The six fault codes (60_exceptions.md R261). A fault is a STATE of the block (10_state.md R44),
entered by `State.raise`; it is no stop of the model (log entry 2). -/
inductive FaultCode where
  /-- Fetch with pc > 0xFFE. -/
  | fetchOutOfRange
  /-- 2NNN with SP = 16. -/
  | stackOverflow
  /-- 00EE with SP = 0. -/
  | stackUnderflow
  /-- DXYN, FX33, FX55, FX65 with a byte above 0xFFF. -/
  | dataOutOfRange
  /-- DXYN with a set sprite bit off the grid. -/
  | drawOutOfRange
  /-- EX9E, EXA1 with V[X] > 15. -/
  | keyOutOfRange
  deriving DecidableEq, Repr

/-- The inputs of one step (00_scope.md R4). -/
structure StepInput where
  /-- `keys_in`: bit k is 1 when logical key k is pressed. -/
  keys : BitVec 16
  /-- `rnd`: the random byte of the step. -/
  rnd : Byte
  deriving DecidableEq, Repr

/-- The outputs of one step, the record `Outcome` of 00_scope.md R5. It is reported and not kept in the
state (log entry 3). -/
structure StepOutcome where
  /-- This step executed 00E0 or DXYN. -/
  frameChanged : Bool
  /-- The address and the word, when this step decoded an unknown word. -/
  unknown : Option (Word × Word)
  /-- The key-wait is active at the end of this step. -/
  waiting : Bool
  /-- ST went from nonzero to zero in this step. -/
  soundEnd : Bool
  /-- The fault the block is in at the end of this step. -/
  fault : Option FaultCode
  deriving DecidableEq, Repr

/-- The state record of 10_state.md section 1, and the model's own three fields that bring the
inputs of a step in (log entries 1 and 9). -/
structure State where
  /-- Memory image, 0x000 to 0xFFF (R46, R50). -/
  mem : Memory
  /-- General registers V0 to VF (R20). -/
  v : Vector Byte 16
  /-- Index register I (R30). -/
  i : Word
  /-- Program counter (R26). -/
  pc : Word
  /-- Call-stack entries (R32). -/
  stack : Vector Word 16
  /-- Stack pointer SP, the number of entries in use, 0 to 16 (R32). -/
  sp : Fin 17
  /-- Delay timer DT (R34). -/
  dt : Byte
  /-- Sound timer ST (R34). -/
  st : Byte
  /-- Input state: the last key snapshot (R36). -/
  keys : BitVec 16
  /-- Framebuffer (R38). -/
  fb : Framebuffer
  /-- Dirty flag (R40). -/
  dirty : Bool
  /-- Key-wait micro-state: none, or the X of the FX0A that entered it (R42). -/
  wait : Option Reg
  /-- Fault state (R44). -/
  fault : Option FaultCode
  /-- MODEL'S OWN: the random byte of the step in progress (00_scope.md R4; log entry 1). -/
  rnd : Byte
  /-- MODEL'S OWN: the inputs the host has already fixed for the coming steps, oldest first
  (00_scope.md R4; log entry 1). -/
  inputs : List StepInput
  /-- MODEL'S OWN: how many inputs have been taken; the argument of the free inputs
  (log entry 1). -/
  inputTime : Nat
  deriving DecidableEq, Repr

/-- The stops of the model. No instruction and no step raises one: the block's own faults are
states (`FaultCode`). -/
inductive Fault where
  /-- `load_program` with an image of more than 3584 bytes, "fatal to starting emulation"
  (60_exceptions.md R271). Raised by `State.loadProgram` alone; safe: nothing is written and the
  host must not step. -/
  | imageTooLarge
  deriving DecidableEq, Repr

/-- The refusals of the model. -/
inductive Refusal where
  /-- An instruction without a meaning, raised by its arm of `exec`; safe. No arm raises it now. -/
  | notModelled (mnemonic : String)
  deriving DecidableEq, Repr

/-- The state after power-on reset (70_reset_and_hazards.md R300, R301): memory at its reset
contents, pc 0x200, dirty true, all else zero, no wait, no fault. `rnd`, `inputs` and `inputTime`
are the model's own: DESIGN CHOICE (log entry 9). -/
def State.reset : State where
  mem := []
  v := Vector.replicate 16 0
  i := 0
  pc := 0x200
  stack := Vector.replicate 16 0
  sp := 0
  dt := 0
  st := 0
  keys := 0
  fb := Vector.replicate 32 0
  dirty := true
  wait := none
  fault := none
  rnd := 0
  inputs := []
  inputTime := 0

end Sys2Proof.Machine
end

