-- ==== Sys2Proof/Machine/Ops.lean ====
section
/-! DEFINITION. The named operations over memory, registers, stack, framebuffer and timers; entering
the fault state; taking the inputs of a step. The block has no trap and no return from one
(60_exceptions.md R260, R273): a fault is left by reset alone (Machine/HostActions.lean). -/
namespace Sys2Proof.Machine

/-! ### Memory (20_memory.md R50, R60) -/

/-- The number of byte addresses: "4096 bytes, byte-addressed, addresses 0x000 to 0xFFF" (R50). -/
def Memory.size : Nat := 4096

/-- What an address reads as until something writes it: the font below 0x050, and above it `mem0`,
which is all zero at power-on (R52; log entries 5 and 6). -/
def Memory.unlisted (a : Nat) : Byte := Config.font.getD a 0

/-- `MemRead(addr, 1)` (00_scope.md section 7). -/
def Memory.read : Memory → Nat → Byte
  | [], a => Memory.unlisted a
  | (k, c) :: m, a => if k = a then c else Memory.read m a

/-- The pair of an address and a byte, or nothing where the byte is what the address reads as
unlisted: what the canonical form lists. -/
def Memory.entry (a : Nat) (b : Byte) : Memory :=
  if b = Memory.unlisted a then [] else [(a, b)]

/-- `MemWrite(addr, 1, v)` (00_scope.md section 7), keeping the canonical form. -/
def Memory.write : Memory → Nat → Byte → Memory
  | [], a, b => Memory.entry a b
  | (k, c) :: m, a, b =>
    if k < a then (k, c) :: Memory.write m a b
    else if k = a then Memory.entry a b ++ m
    else Memory.entry a b ++ (k, c) :: m

/-- `MemWrite` of several bytes at a, a+1, ... in ascending order (R56, R57). -/
def Memory.writeBytes : Memory → Nat → List Byte → Memory
  | m, _, [] => m
  | m, a, b :: bs => Memory.writeBytes (Memory.write m a b) (a + 1) bs

/-- `MemRead` of n bytes at a, a+1, ... in ascending order (R56, R57). -/
def Memory.readBytes (m : Memory) (a : Nat) : Nat → List Byte
  | 0 => []
  | n + 1 => Memory.read m a :: Memory.readBytes m (a + 1) n

/-- The canonical form: addresses strictly rising, all in the address space, no entry equal to what
its address reads as unlisted. -/
abbrev Memory.wf (m : Memory) : Prop :=
  m.Pairwise (fun c d => c.1 < d.1) ∧ ∀ c ∈ m, c.1 < Memory.size ∧ c.2 ≠ Memory.unlisted c.1

/-! ### Registers -/

/-- `V[x]` (10_state.md R20). No register is hard-wired. -/
def State.getV (s : State) (x : Reg) : Byte := s.v[x]

/-- `V[x] <- b` (10_state.md R20). -/
def State.setV (s : State) (x : Reg) (b : Byte) : State := { s with v := s.v.set x b }

/-- All sixteen registers at once. -/
def State.setRegs (s : State) (v : Vector Byte 16) : State := { s with v := v }

/-- `VF <- b`, the side-effect write of the flag register V15 (10_state.md R22, R23). -/
def State.setFlag (s : State) (b : Byte) : State := s.setV 15 b

/-- `I <- a` (10_state.md R30). -/
def State.setI (s : State) (a : Word) : State := { s with i := a }

/-- `pc <- a` (10_state.md R26). -/
def State.setPc (s : State) (a : Word) : State := { s with pc := a }

/-- `next`: pc <- pc + 2 (00_scope.md section 7; 40_engine.md R104). It wraps at 2^16, which no run
reaches (log entry 7). -/
def State.advance (s : State) : State := s.setPc (s.pc + 2)

/-- Class skip-conditional: pc + 4 if the condition holds, else pc + 2 (40_engine.md R104). -/
def State.skipIf (s : State) (c : Bool) : State := s.setPc (s.pc + if c then 4 else 2)

/-- `DT <- b` (10_state.md R34). -/
def State.setDt (s : State) (b : Byte) : State := { s with dt := b }

/-- `ST <- b` (10_state.md R34). -/
def State.setSt (s : State) (b : Byte) : State := { s with st := b }

/-- The memory image after writes. -/
def State.setMem (s : State) (m : Memory) : State := { s with mem := m }

/-- `for j in 0..n-1: V[j] <- MemRead(a + j, 1)`, ascending (44_index_memory.md R200). -/
def loadRegs (m : Memory) (a : Nat) : Nat → Vector Byte 16 → Vector Byte 16
  | 0, v => v
  | n + 1, v => (loadRegs m a n v).setIfInBounds n (m.read (a + n))

/-! ### Entering the fault state -/

/-- `raise Fault(c, pc)` inside an instruction: the fault state is set and pc stays at the faulting
instruction (60_exceptions.md R262). The step then keeps none of its other effects
(40_engine.md R110; `engine`). -/
def State.raise (s : State) (c : FaultCode) : State := { s with fault := some c }

/-- The numbers of the codes (60_exceptions.md R261). -/
def FaultCode.number : FaultCode → Nat
  | .fetchOutOfRange => 1
  | .stackOverflow => 2
  | .stackUnderflow => 3
  | .dataOutOfRange => 4
  | .drawOutOfRange => 5
  | .keyOutOfRange => 6

/-- The code and the info of the fault the block is in; the info is the pc of the instruction that
raised it, where pc still points (60_exceptions.md R261, R262; 90_conflicts.md C8). -/
def State.faultInfo (s : State) : Option (FaultCode × Word) := s.fault.map (·, s.pc)

/-! ### Call stack (10_state.md R32) -/

/-- A push: `stack[SP] <- a`, then SP + 1. -/
def State.push (s : State) (a : Word) (h : s.sp.val < 16) : State :=
  { s with stack := s.stack.set s.sp.val a, sp := ⟨s.sp.val + 1, by omega⟩ }

/-- The entry a pop reads: `stack[SP - 1]`. -/
def State.top (s : State) (h : 0 < s.sp.val) : Word :=
  s.stack[s.sp.val - 1]'(by have := s.sp.isLt; omega)

/-- The state after a pop: SP - 1; the entry keeps its value. -/
def State.pop (s : State) : State :=
  { s with sp := ⟨s.sp.val - 1, by have := s.sp.isLt; omega⟩ }

/-! ### Framebuffer (10_state.md R38) -/

/-- Row y; a row off the grid reads as zero and is never asked for by an instruction. -/
def Framebuffer.row (fb : Framebuffer) (y : Nat) : BitVec 64 := fb[y]?.getD 0

/-- `fb[x, y]`. -/
def Framebuffer.cell (fb : Framebuffer) (x y : Nat) : Bool := (fb.row y).getLsbD x

/-- `fb[x, y] <- fb[x, y] XOR 1`. -/
def Framebuffer.toggle (fb : Framebuffer) (x y : Nat) : Framebuffer :=
  fb.setIfInBounds y (fb.row y ^^^ BitVec.twoPow 64 x)

/-- The cell at flat index k = y*64 + x (D11). -/
def Framebuffer.flat (fb : Framebuffer) (k : Nat) : Bool := fb.cell (k % 64) (k / 64)

/-- The framebuffer with every cell 0. -/
def Framebuffer.clear : Framebuffer := Vector.replicate 32 0

/-- A new framebuffer, with the dirty flag set "whether or not a cell changed" (10_state.md R40). -/
def State.present (s : State) (fb : Framebuffer) : State := { s with fb := fb, dirty := true }

/-! ### Keys (10_state.md R36; 46_timers_keys.md R235, R236) -/

/-- Is logical key k pressed in this step's snapshot? -/
def State.keyDown (s : State) (k : Nat) : Bool := s.keys.getLsbD k

/-- Is any key pressed in this step's snapshot? -/
def State.anyKey (s : State) : Bool := s.keys != 0

/-- The lowest pressed key, as a byte (46_timers_keys.md R236; log entry 12). Asked for only when one
is pressed. -/
def State.lowestKey (s : State) : Byte :=
  BitVec.ofNat 8 (((List.range 16).find? s.keyDown).getD 0)

/-- A pressed key completes FX0A: V[x] gets its index and pc moves on (46_timers_keys.md R236);
otherwise nothing happens here. -/
def State.takeKey (s : State) (x : Reg) : State :=
  { s with
    v := if s.anyKey then s.v.set x s.lowestKey else s.v
    pc := if s.anyKey then s.pc + 2 else s.pc }

/-! ### The phases of a step around an instruction (40_engine.md R100) -/

/-- The inputs of the coming step: the oldest one the host has fixed, or free values. -/
def State.nextInput (s : State) : StepInput :=
  match s.inputs with
  | io :: _ => io
  | [] => { keys := Config.keysIn s.inputTime, rnd := Config.randomByte s.inputTime }

/-- Phase 2, the input sample: `keys <- keys_in`, with the step's random byte beside it. -/
def State.sample (s : State) : State :=
  { s with
    keys := s.nextInput.keys
    rnd := s.nextInput.rnd
    inputs := s.inputs.tail
    inputTime := s.inputTime + 1 }

/-- A timer one tick later: never below 0 (40_engine.md R108). -/
def tickTimer (t : Byte) : Byte := if t > 0 then t - 1 else 0

/-- Phase 6, the timer tick (40_engine.md R108). -/
def State.tick (s : State) : State := { s with dt := tickTimer s.dt, st := tickTimer s.st }

/-- The key-wait cycle: a pressed key completes the FX0A that waits and ends the wait
(40_engine.md R107). -/
def State.keyWaitCycle (s : State) (x : Reg) : State :=
  { s.takeKey x with wait := if s.anyKey then none else s.wait }

/-- An Unknown word: pc + 2 and nothing else (40_engine.md R106). -/
def execUnknown (s : State) : State := s.advance

/-- Can the block fetch: are pc and pc + 1 both memory addresses (40_engine.md R101)? -/
def State.canFetch (s : State) : Bool := s.pc.toNat ≤ 0xFFE

end Sys2Proof.Machine
end

