-- ==== Sys2Proof/Machine/Operands.lean ====
section
/-! DEFINITION. The operand forms: address literals, accesses through I, and the cells of a sprite
(30_encoding.md R72; 20_memory.md R57, R58; 45_display.md R211). -/
namespace Sys2Proof.Machine

/-- `zext_16(NNN)` (30_encoding.md R72). -/
def zext16 (nnn : Addr12) : Word := nnn.zeroExtend 16

/-- A: the value of I at the start of the instruction, as an address of exact, unbounded addition
(44_index_memory.md; 20_memory.md R57). -/
def State.base (s : State) : Nat := s.i.toNat

/-- The range check of an access to n bytes from A: the highest address is at most 0xFFF; no byte,
no check (20_memory.md R58; 45_display.md R212). -/
def State.reaches (s : State) (n : Nat) : Bool := n == 0 || s.base + n - 1 ≤ 0xFFF

/-- The registers V0..VX, in ascending order (44_index_memory.md R198). -/
def State.firstRegs (s : State) (x : Reg) : List Byte := s.v.toList.take (x.val + 1)

/-- The three decimal digits of a byte: hundreds, tens, units (44_index_memory.md R196). -/
def decimalDigits (a : Byte) : List Byte :=
  [BitVec.ofNat 8 (a.toNat / 100), BitVec.ofNat 8 (a.toNat / 10 % 10), BitVec.ofNat 8 (a.toNat % 10)]

/-- The cells that the set bits of one row byte address, left to right: column c is bit 7 - c
(45_display.md R211; log entry 12). -/
def rowCells (x0 y : Nat) (b : Byte) : List (Nat × Nat) :=
  ((List.range 8).filter (fun c => b.getLsbD (7 - c))).map (fun c => (x0 + c, y))

/-- The cells that the set bits of a sprite address, in row-major order (45_display.md R212). -/
def spriteCells (x0 y0 : Nat) : List Byte → List (Nat × Nat)
  | [] => []
  | b :: bs => rowCells x0 y0 b ++ spriteCells x0 (y0 + 1) bs

/-- Is a cell on the 64 x 32 grid (45_display.md R212)? -/
def onGrid (p : Nat × Nat) : Bool := p.1 ≤ 63 && p.2 ≤ 31

/-- The sprite of DXYN: n bytes at A (45_display.md R211). -/
def State.sprite (s : State) (n : Rows) : List Byte := s.mem.readBytes s.base n.toNat

/-- The cells DXYN toggles: coordinates are V[x] and V[y] as they are, not reduced
(45_display.md R212). -/
def State.drawCells (s : State) (x y : Reg) (n : Rows) : List (Nat × Nat) :=
  spriteCells (s.getV x).toNat (s.getV y).toNat (s.sprite n)

/-- One step of the drawing loop: note a hit where the cell was 1, then toggle it
(45_display.md R212). -/
def drawCell (acc : Framebuffer × Bool) (p : Nat × Nat) : Framebuffer × Bool :=
  (acc.1.toggle p.1 p.2, acc.2 || acc.1.cell p.1 p.2)

/-- The drawing loop: the framebuffer and whether a cell was turned from 1 to 0
(45_display.md R212). -/
def drawSprite (fb : Framebuffer) (cells : List (Nat × Nat)) : Framebuffer × Bool :=
  cells.foldl drawCell (fb, false)

end Sys2Proof.Machine
end

