-- ==== Sys2Proof/Machine/Flags.lean ====
section
/-! DEFINITION. The values of the flag register VF (10_state.md R22, R23). There are no other
condition codes (10_state.md R48). -/
namespace Sys2Proof.Machine

/-- A flag as the byte VF gets. -/
def flagByte (c : Bool) : Byte := if c then 1 else 0

/-- 8XY4: carry out of bit 7, the exact sum exceeds 255 (43_alu.md R166). -/
def carryFlag (a b : Byte) : Byte := flagByte (a.toNat + b.toNat > 255)

/-- NOT borrow of a - b: 0 if b > a, else 1 (43_alu.md R167; R169 with the operands exchanged). -/
def notBorrowFlag (a b : Byte) : Byte := flagByte (!(b.toNat > a.toNat))

/-- 8XY6: the bit shifted out, the old bit 0 (43_alu.md R168). -/
def shrFlag (a : Byte) : Byte := flagByte (a.getLsbD 0)

/-- 8XYE: the bit shifted out, the old bit 7 (43_alu.md R170). -/
def shlFlag (a : Byte) : Byte := flagByte (a.getLsbD 7)

/-- FX1E: the exact sum of I and V[X] exceeds 0xFFF (44_index_memory.md R192). -/
def indexFlag (a : Word) (b : Byte) : Byte := flagByte (a.toNat + b.toNat > 0xFFF)

/-- The result to V[x], and the flag to VF by the last write, so that with x = F the flag stands
(10_state.md R23; 43_alu.md; D7; log entry 12). -/
def State.setVFlag (s : State) (x : Reg) (r f : Byte) : State := (s.setV x r).setFlag f

end Sys2Proof.Machine
end

