-- ==== Sys2Proof/Machine/Alu.lean ====
section
/-! DEFINITION. 8-bit ALU and register loads: 6XNN, 7XNN, 8XY0-8XYE, CXNN (43_alu.md). Arithmetic is
exact on numbers and narrowed at the end (43_alu.md R172). -/
namespace Sys2Proof.Machine

/-- An instruction whose only results are V[x] and pc + 2. -/
def toReg (x : Reg) (r : Byte) (s : State) : Host.Outcome State Fault Refusal :=
  .next (s.setV x r).advance

/-- An instruction whose results are V[x], then VF, and pc + 2. -/
def toRegFlag (x : Reg) (r f : Byte) (s : State) : Host.Outcome State Fault Refusal :=
  .next (s.setVFlag x r f).advance

/-- (a + b) mod 2^8 (43_alu.md R161, R166). -/
def addMod (a b : Byte) : Byte := BitVec.ofNat 8 (a.toNat + b.toNat)

/-- (a - b) mod 2^8, "a + 256 - b, truncated" (43_alu.md R167). -/
def subMod (a b : Byte) : Byte := BitVec.ofNat 8 (a.toNat + 256 - b.toNat)

/-- LD Vx, nn (43_alu.md R160). -/
def execLdImm (x : Reg) (nn : Byte) (s : State) : Host.Outcome State Fault Refusal :=
  toReg x nn s

/-- ADD Vx, nn: no flag (43_alu.md R161). -/
def execAddImm (x : Reg) (nn : Byte) (s : State) : Host.Outcome State Fault Refusal :=
  toReg x (addMod (s.getV x) nn) s

/-- LD Vx, Vy (43_alu.md R162). -/
def execLdReg (x y : Reg) (s : State) : Host.Outcome State Fault Refusal :=
  toReg x (s.getV y) s

/-- OR Vx, Vy: no flag (43_alu.md R163). -/
def execOrReg (x y : Reg) (s : State) : Host.Outcome State Fault Refusal :=
  toReg x (s.getV x ||| s.getV y) s

/-- AND Vx, Vy: no flag (43_alu.md R164). -/
def execAndReg (x y : Reg) (s : State) : Host.Outcome State Fault Refusal :=
  toReg x (s.getV x &&& s.getV y) s

/-- XOR Vx, Vy: no flag (43_alu.md R165). -/
def execXorReg (x y : Reg) (s : State) : Host.Outcome State Fault Refusal :=
  toReg x (s.getV x ^^^ s.getV y) s

/-- ADD Vx, Vy (43_alu.md R166). -/
def execAddReg (x y : Reg) (s : State) : Host.Outcome State Fault Refusal :=
  toRegFlag x (addMod (s.getV x) (s.getV y)) (carryFlag (s.getV x) (s.getV y)) s

/-- SUB Vx, Vy (43_alu.md R167). -/
def execSubReg (x y : Reg) (s : State) : Host.Outcome State Fault Refusal :=
  toRegFlag x (subMod (s.getV x) (s.getV y)) (notBorrowFlag (s.getV x) (s.getV y)) s

/-- SHR Vx: y is neither read nor written (43_alu.md R168; 30_encoding.md R77). -/
def execShr (x _y : Reg) (s : State) : Host.Outcome State Fault Refusal :=
  toRegFlag x (s.getV x >>> 1) (shrFlag (s.getV x)) s

/-- SUBN Vx, Vy (43_alu.md R169). -/
def execSubnReg (x y : Reg) (s : State) : Host.Outcome State Fault Refusal :=
  toRegFlag x (subMod (s.getV y) (s.getV x)) (notBorrowFlag (s.getV y) (s.getV x)) s

/-- SHL Vx: y is neither read nor written (43_alu.md R170; 30_encoding.md R77). -/
def execShl (x _y : Reg) (s : State) : Host.Outcome State Fault Refusal :=
  toRegFlag x (s.getV x <<< 1) (shlFlag (s.getV x)) s

/-- RND Vx, nn: the random byte of this step AND NN (43_alu.md R171). -/
def execRnd (x : Reg) (nn : Byte) (s : State) : Host.Outcome State Fault Refusal :=
  toReg x (s.rnd &&& nn) s

end Sys2Proof.Machine
end

