-- ==== Sys2Proof/Machine/Display.lean ====
section
/-! DEFINITION. Framebuffer instructions: 00E0, DXYN (45_display.md). -/
namespace Sys2Proof.Machine

/-- CLS: every cell 0, dirty set even when nothing changed (45_display.md R210). -/
def execCls (s : State) : Host.Outcome State Fault Refusal :=
  .next (s.present Framebuffer.clear).advance

/-- DRW Vx, Vy, n: the data check, then the draw check, then the drawing; VF is the collision flag
(45_display.md R212; 60_exceptions.md R269). -/
def execDrw (x y : Reg) (n : Rows) (s : State) : Host.Outcome State Fault Refusal :=
  if !s.reaches n.toNat then .next (s.raise .dataOutOfRange)
  else if !(s.drawCells x y n).all onGrid then .next (s.raise .drawOutOfRange)
  else
    .next (((s.present (drawSprite s.fb (s.drawCells x y n)).1).setFlag
      (flagByte (drawSprite s.fb (s.drawCells x y n)).2)).advance)

end Sys2Proof.Machine
end

