-- ==== Sys2Proof/Machine/Flow.lean ====
section
/-! DEFINITION. Control transfer: SYS, RET, JP, CALL, JP V0 (41_flow.md). pc is the address of the
instruction (10_state.md R26). -/
namespace Sys2Proof.Machine

/-- SYS nnn: advances pc, nothing else; every nnn has the same effect (41_flow.md R120). -/
def execSys (_nnn : Addr12) (s : State) : Host.Outcome State Fault Refusal :=
  .next s.advance

/-- RET: pop, then pc is the entry plus 2; STACK_UNDERFLOW with SP = 0 (41_flow.md R121). -/
def execRet (s : State) : Host.Outcome State Fault Refusal :=
  if h : 0 < s.sp.val then .next (s.pop.setPc (s.top h + 2))
  else .next (s.raise .stackUnderflow)

/-- JP nnn (41_flow.md R122). -/
def execJp (nnn : Addr12) (s : State) : Host.Outcome State Fault Refusal :=
  .next (s.setPc (zext16 nnn))

/-- CALL nnn: push the address of this CALL, then jump; STACK_OVERFLOW with SP = 16
(41_flow.md R123). -/
def execCall (nnn : Addr12) (s : State) : Host.Outcome State Fault Refusal :=
  if h : s.sp.val < 16 then .next ((s.push s.pc h).setPc (zext16 nnn))
  else .next (s.raise .stackOverflow)

/-- JP V0, nnn: the register is always V0 (41_flow.md R124). -/
def execJpV0 (nnn : Addr12) (s : State) : Host.Outcome State Fault Refusal :=
  .next (s.setPc (zext16 nnn + (s.getV 0).zeroExtend 16))

end Sys2Proof.Machine
end

