-- ==== Sys2Proof/Machine/Index.lean ====
section
/-! DEFINITION. Index register and memory transfer: ANNN, FX1E, FX29, FX33, FX55, FX65
(44_index_memory.md). Range checks come before any write (20_memory.md R58). -/
namespace Sys2Proof.Machine

/-- I moved past X + 1 bytes, modulo 2^16 (44_index_memory.md R198, R200; D8). -/
def State.bumpI (s : State) (x : Reg) : State :=
  s.setI (BitVec.ofNat 16 (s.base + x.val + 1))

/-- LD I, nnn (44_index_memory.md R190). -/
def execLdI (nnn : Addr12) (s : State) : Host.Outcome State Fault Refusal :=
  .next (s.setI (zext16 nnn)).advance

/-- ADD I, Vx: the sum modulo 2^16, VF by the last write (44_index_memory.md R192; D7, D8). -/
def execAddIX (x : Reg) (s : State) : Host.Outcome State Fault Refusal :=
  .next (((s.setI (BitVec.ofNat 16 (s.base + (s.getV x).toNat))).setFlag
    (indexFlag s.i (s.getV x))).advance)

/-- LD F, Vx: I is V[X] * 5, at most 0x4FB (44_index_memory.md R194). -/
def execLdFX (x : Reg) (s : State) : Host.Outcome State Fault Refusal :=
  .next (s.setI (BitVec.ofNat 16 ((s.getV x).toNat * 5))).advance

/-- LD B, Vx: three digits at A, A+1, A+2 (44_index_memory.md R196). -/
def execLdBX (x : Reg) (s : State) : Host.Outcome State Fault Refusal :=
  if s.reaches 3 then .next (s.setMem (s.mem.writeBytes s.base (decimalDigits (s.getV x)))).advance
  else .next (s.raise .dataOutOfRange)

/-- LD [I], Vx: V0..VX to A..A+X, then I + X + 1 (44_index_memory.md R198). -/
def execLdMemX (x : Reg) (s : State) : Host.Outcome State Fault Refusal :=
  if s.reaches (x.val + 1) then
    .next ((s.setMem (s.mem.writeBytes s.base (s.firstRegs x))).bumpI x).advance
  else .next (s.raise .dataOutOfRange)

/-- LD Vx, [I]: V0..VX from A..A+X, then I + X + 1 (44_index_memory.md R200). -/
def execLdXMem (x : Reg) (s : State) : Host.Outcome State Fault Refusal :=
  if s.reaches (x.val + 1) then
    .next ((s.setRegs (loadRegs s.mem s.base (x.val + 1) s.v)).bumpI x).advance
  else .next (s.raise .dataOutOfRange)

end Sys2Proof.Machine
end

