-- ==== Sys2Proof/Machine/KeysTimers.lean ====
section
/-! DEFINITION. Keys and timers: EX9E, EXA1, FX07, FX0A, FX15, FX18 (46_timers_keys.md). The timer
tick that follows is the step's (40_engine.md R108). -/
namespace Sys2Proof.Machine

/-- SKP Vx; KEY_OUT_OF_RANGE when V[X] > 15 (46_timers_keys.md R230). -/
def execSkp (x : Reg) (s : State) : Host.Outcome State Fault Refusal :=
  if (s.getV x).toNat > 15 then .next (s.raise .keyOutOfRange)
  else .next (s.skipIf (s.keyDown (s.getV x).toNat))

/-- SKNP Vx; KEY_OUT_OF_RANGE when V[X] > 15 (46_timers_keys.md R231). -/
def execSknp (x : Reg) (s : State) : Host.Outcome State Fault Refusal :=
  if (s.getV x).toNat > 15 then .next (s.raise .keyOutOfRange)
  else .next (s.skipIf (!s.keyDown (s.getV x).toNat))

/-- LD Vx, DT: DT before this step's tick (46_timers_keys.md R232). -/
def execLdXDt (x : Reg) (s : State) : Host.Outcome State Fault Refusal :=
  .next (s.setV x s.dt).advance

/-- LD Vx, K: a pressed key completes it at once; otherwise the key-wait holds x and pc stays
(46_timers_keys.md R236; D9). -/
def execLdXK (x : Reg) (s : State) : Host.Outcome State Fault Refusal :=
  .next { s.takeKey x with wait := if s.anyKey then s.wait else some x }

/-- LD DT, Vx (46_timers_keys.md R233). -/
def execLdDtX (x : Reg) (s : State) : Host.Outcome State Fault Refusal :=
  .next (s.setDt (s.getV x)).advance

/-- LD ST, Vx (46_timers_keys.md R234). -/
def execLdStX (x : Reg) (s : State) : Host.Outcome State Fault Refusal :=
  .next (s.setSt (s.getV x)).advance

end Sys2Proof.Machine
end

