-- ==== Sys2Proof/Machine/Engine.lean ====
section
/-! DEFINITION. The fetch-decode-execute step with its Outcome (40_engine.md R100 to R110). -/
namespace Sys2Proof.Machine

/-- Fetch: the word of the bytes at pc and pc + 1, high byte first (40_engine.md R101;
20_memory.md R55). -/
def State.fetchWord (s : State) : Word :=
  wordOfBytes (s.mem.read s.pc.toNat) (s.mem.read (s.pc.toNat + 1))

/-- The instructions that report `frame_changed` (40_engine.md R109): 00E0 and DXYN. -/
def drawsFrame : Instr → Bool
  | .cls | .drw _ _ _ => true
  | .sys _ | .ret | .jp _ | .call _ | .jpV0 _ => false
  | .seImm _ _ | .sneImm _ _ | .seReg _ _ | .sneReg _ _ => false
  | .ldImm _ _ | .addImm _ _ | .ldReg _ _ | .orReg _ _ | .andReg _ _ | .xorReg _ _ => false
  | .addReg _ _ | .subReg _ _ | .shr _ _ | .subnReg _ _ | .shl _ _ | .rnd _ _ => false
  | .ldI _ | .addIX _ | .ldFX _ | .ldBX _ | .ldMemX _ | .ldXMem _ => false
  | .skp _ | .sknp _ | .ldXDt _ | .ldXK _ | .ldDtX _ | .ldStX _ => false

/-- The end of a non-faulting step that began in s and whose phase 3 gave t: the timer tick and the
Outcome (40_engine.md R108, R109). -/
def finish (s t : State) (frame : Bool) (unk : Option (Word × Word)) : State × StepOutcome :=
  (t.tick,
    { frameChanged := frame
      unknown := unk
      waiting := t.wait.isSome
      soundEnd := s.st != 0 && t.tick.st == 0
      fault := none })

/-- The end of a step that began in s and raised c: no effect is kept but the fault itself
(40_engine.md R110; 60_exceptions.md R262). The host's input is not taken (log entry 8). -/
def faulted (s : State) (c : FaultCode) : State × StepOutcome :=
  (s.raise c,
    { frameChanged := false, unknown := none, waiting := false, soundEnd := false, fault := some c })

/-- A step in the fault state changes nothing and reports the fault (60_exceptions.md R263). -/
def halted (s : State) (c : FaultCode) : State × StepOutcome :=
  (s,
    { frameChanged := false, unknown := none, waiting := s.wait.isSome, soundEnd := false,
      fault := some c })

/-- The end of a step that executed an instruction, with result t: roll back if it raised a fault,
finish otherwise (40_engine.md R100, R110). -/
def settle (s t : State) (frame : Bool) : State × StepOutcome :=
  match t.fault with
  | some c => faulted s c
  | none => finish s t frame none

/-- Fetch, decode and execute (40_engine.md R101 to R103, R106). -/
def fetchAndExecute (p : Config.Params) (s : State) :
    Host.Outcome (State × StepOutcome) Fault Refusal :=
  if s.canFetch then
    match decodeWith p s.fetchWord with
    | some i =>
      match exec i s.sample with
      | .next t => .next (settle s t (drawsFrame i))
      | .fault r => .fault r
      | .refused r => .refused r
    | none => .next (finish s (execUnknown s.sample) false (some (s.pc, s.fetchWord)))
  else .next (faulted s .fetchOutOfRange)

/-- One step: the next state and the Outcome (40_engine.md R100). -/
def engine (p : Config.Params) (s : State) : Host.Outcome (State × StepOutcome) Fault Refusal :=
  match s.fault with
  | some c => .next (halted s c)
  | none =>
    match s.wait with
    | some x => .next (finish s (s.sample.keyWaitCycle x) false none)
    | none => fetchAndExecute p s

/-- One step without its Outcome. -/
def stepWith (p : Config.Params) (s : State) : Host.Outcome State Fault Refusal :=
  match engine p s with
  | .next r => .next r.1
  | .fault r => .fault r
  | .refused r => .refused r

end Sys2Proof.Machine
end

