-- ==== Sys2Proof/Machine/HostActions.lean ====
section
/-! DEFINITION. What the host does between steps (70_reset_and_hazards.md R310): reset, load a program,
clear the dirty flag. Reading state needs no operation: it has no side effect (00_scope.md R6). -/
namespace Sys2Proof.Machine

/-- The reset contents of memory under FONT and mem0, address by address
(20_memory.md R52; 70_reset_and_hazards.md R300). -/
def resetImage (font : Vector Byte 80) (mem0 : Vector Byte 4096) : List Byte :=
  font.toList ++ mem0.toList.drop 80

/-- `reset()` between steps, for any FONT and any mem0 (70_reset_and_hazards.md R300, R301). The
model's own fields `inputs` and `inputTime` are the host's and stay (log entry 9). At power-on it
is `State.reset`. -/
def State.hostReset (font : Vector Byte 80) (mem0 : Vector Byte 4096) (s : State) : State :=
  { State.reset with
    mem := Memory.writeBytes [] 0 (resetImage font mem0)
    inputs := s.inputs
    inputTime := s.inputTime }

/-- `load_program(bytes)`: the image from 0x200; more than 3584 bytes fail with ImageTooLarge and
write nothing (70_reset_and_hazards.md R302; 60_exceptions.md R271). -/
def State.loadProgram (bytes : List Byte) (s : State) : Host.Outcome State Fault Refusal :=
  if bytes.length > 4096 - 0x200 then .fault .imageTooLarge
  else .next (s.setMem (s.mem.writeBytes 0x200 bytes))

/-- `clear_dirty()` (70_reset_and_hazards.md R310; 45_display.md R214). -/
def State.clearDirty (s : State) : State := { s with dirty := false }

/-- A word placed where the next step fetches, with nothing in the way of that fetch: no fault, no
key-wait, and a pc that can be fetched at (pc itself wherever it can be; log entry 10). -/
def State.placeWord (s : State) (w : Word) : State :=
  { s with
    mem := s.mem.writeBytes (if s.canFetch then s.pc else 0x200).toNat (bytesOfWord w)
    pc := if s.canFetch then s.pc else 0x200
    wait := none
    fault := none }

end Sys2Proof.Machine
end

