-- ==== Sys2Proof/Machine/Step.lean ====
section
/-! DEFINITION. `step`, the block's only transition (40_engine.md R100), and the host's way to place
one instruction under the next fetch. -/
namespace Sys2Proof.Machine

/-- One step under the default parameters; its inputs come from the state (log entry 1). -/
def step (s : State) : Host.Outcome State Fault Refusal := stepWith Config.params s

/-- s with the instruction word w, its bits numbered as spec/opcode_table.json numbers them,
stored where step fetches next; bits above nbits are 0 (log entry 10). -/
def State.withFetchWord (s : State) (nbits w : Nat) : State :=
  s.placeWord (BitVec.ofNat 16 (w % 2 ^ nbits))

end Sys2Proof.Machine
end

