-- ==== Sys2Proof/Safety.lean ====
section
/-! DEFINITION. The terms claims use: what a run executes, when it ends, what makes it safe, and the
invariant of the block. -/
namespace Sys2Proof.Machine

/-- The step from s fetches, decodes and executes i (40_engine.md R100 to R103). -/
def State.Executes (s : State) (i : Instr) : Prop :=
  s.fault = none ∧ s.wait = none ∧ s.canFetch = true ∧ decode s.fetchWord = some i

/-- The self-jump, "the conventional end of a CHIP-8 program" (70_reset_and_hazards.md R312 (b)). -/
def State.AtSelfJump (s : State) : Prop :=
  s.wait = none ∧ s.pc.toNat ≤ 0xFFE ∧ s.fetchWord = 0x1000 ||| s.pc

/-- The k states a run of k steps leaves, from s on, and the one it ends in; none where it stops
(never: every step of this block answers a next state). -/
def trace : Nat → State → Option (List State × State)
  | 0, s => some ([], s)
  | k + 1, s =>
    match step s with
    | .next t => (trace k t).map (fun r => (s :: r.1, r.2))
    | _ => none

/-- A safe run of k steps from s: it never reaches a fault, which "marks a point where the source's
software does something this spec does not define" (70_reset_and_hazards.md R312 (a)). -/
def SafeRun (k : Nat) (s : State) : Prop :=
  ∃ l t, trace k s = some (l, t) ∧ (∀ u ∈ l, u.fault = none) ∧ t.fault = none

/-- The invariant of the block: memory in its canonical form within 0x000-0xFFF; pc at most 0x10FE
(10_state.md R27), and at most 0xFFE while the key-wait holds it at an FX0A; every stack entry the
address of a CALL, at most 0xFFE (41_flow.md R121). -/
structure Inv (s : State) : Prop where
  mem : Memory.wf s.mem
  pc : s.pc.toNat ≤ 0x10FE
  waitPc : s.wait ≠ none → s.pc.toNat ≤ 0xFFE
  stack : ∀ j : Fin 16, s.stack[j].toNat ≤ 0xFFE

end Sys2Proof.Machine
end

