-- ==== Sys2Proof/Certificates/Slice0/Obligations.lean ====
section
/-! DEFINITION. The statements for the provers: what the numbered rules of spec/ say the block does,
about every state. Where a rule carries the spec's own mark (decision, derived, general knowledge),
the docstring names it. -/

open Sys2Proof Sys2Proof.Machine

/-! ### Decoder and encoder -/

/-- The bytes of a well-formed instruction decode to it, every operand at every value: no bit of an
encoding is dropped (30_encoding.md sections 1 to 3). -/
def Obligations.DecodeOfEncode : Prop :=
  ∀ i : Instr, WellFormed i = true →
    decodeBytes Config.params (bytesOfWord (encode i)) = .ok (i, [])

/-- A word that decodes, under any parameters, is the word the encoder gives back, and what it
decodes to is well formed: no two words share an instruction (30_encoding.md sections 1 to 3). -/
def Obligations.EncodeOfDecode : Prop :=
  ∀ (p : Config.Params) (w : Word) (i : Instr), decodeWith p w = some i →
    WellFormed i = true ∧ encode i = w

/-- The Unknown words, listed exhaustively, for every choice of P_9XY0 and P_0NNN (30_encoding.md
section 3, a list the spec marks as derived). -/
def Obligations.UnknownWordsAreExactlyThese : Prop :=
  ∀ (p : Config.Params) (w : Word), decodeWith p w = none ↔
    (w.toNat / 4096 = 0x5 ∧ w.toNat % 16 ≠ 0) ∨
    (w.toNat / 4096 = 0x8 ∧ w.toNat % 16 ∈ [0x8, 0x9, 0xA, 0xB, 0xC, 0xD, 0xF]) ∨
    (w.toNat / 4096 = 0x9 ∧ (w.toNat % 16 ≠ 0 ∨ p.p9XY0 = .unknown)) ∨
    (w.toNat / 4096 = 0xE ∧ w.toNat % 256 ≠ 0x9E ∧ w.toNat % 256 ≠ 0xA1) ∨
    (w.toNat / 4096 = 0xF ∧
      w.toNat % 256 ∉ [0x07, 0x0A, 0x15, 0x18, 0x1E, 0x29, 0x33, 0x55, 0x65]) ∨
    (w.toNat / 4096 = 0x0 ∧ p.p0NNN = .unknown ∧ w.toNat ≠ 0x00E0 ∧ w.toNat ≠ 0x00EE)

/-- Words written out in the spec's examples decode to the instructions they stand for. -/
def Obligations.SpecWordsDecode : Prop :=
  decode 0x0123 = some (.sys 0x123) ∧ decode 0x00EE = some .ret ∧
  decode 0x1ABC = some (.jp 0xABC) ∧ decode 0x3342 = some (.seImm 3 0x42) ∧
  decode 0x8014 = some (.addReg 0 1) ∧ decode 0x8126 = some (.shr 1 2) ∧
  decode 0xA2F0 = some (.ldI 0x2F0) ∧ decode 0xD015 = some (.drw 0 1 5) ∧
  decode 0xE59E = some (.skp 5) ∧ decode 0xF255 = some (.ldMemX 2) ∧ decode 0xFFFF = none

/-! ### The step -/

/-- Where the bytes at pc decode to an instruction, a step with no fault and no key-wait is `exec` of
that instruction on the state whose inputs have been sampled, and then either the timer tick, or, if
the instruction raised a fault, the state before the step with that fault set (40_engine.md
sections 1, 5 and 7). THE MODEL'S CHOICES: where the sampled inputs come from, which is
`nextInput`, `inputs.tail` and `inputTime + 1` (log entry 1), and that a faulting step leaves them
untaken (log entry 8). -/
def Obligations.StepRunsTheDecodedInstruction : Prop :=
  ∀ (s t : State) (i : Instr), s.fault = none → s.wait = none → s.pc.toNat ≤ 0xFFE →
    decodeBytes Config.params [s.mem.read s.pc.toNat, s.mem.read (s.pc.toNat + 1)] = .ok (i, []) →
    exec i { s with keys := s.nextInput.keys, rnd := s.nextInput.rnd, inputs := s.inputs.tail,
                    inputTime := s.inputTime + 1 } = .next t →
    step s = .next (match t.fault with
      | none => t.tick
      | some c => { s with fault := some c })

/-- Fetch: the two bytes at pc, the high one first; a fetch whose second byte would lie above 0xFFF
raises FETCH_OUT_OF_RANGE before anything is read (20_memory.md R55; the fault policy is decision D4). -/
def Obligations.FetchIsBigEndian : Prop :=
  ∀ s : State,
    s.fetchWord.toNat = 256 * (s.mem.read s.pc.toNat).toNat + (s.mem.read (s.pc.toNat + 1)).toNat ∧
    (s.fault = none → s.wait = none → 0xFFF < s.pc.toNat + 1 →
      step s = .next { s with fault := some .fetchOutOfRange })

/-- An Unknown word, under every choice of P_9XY0 and P_0NNN: pc + 2, the timer tick, and the diagnostic
with the pc of the word; no register, memory, framebuffer or stack changes (40_engine.md
section 3; the parameters are decisions D2 and D3). `keys` takes this step's snapshot (decision
D1). THE MODEL'S CHOICE: `rnd`, `inputs` and `inputTime` are its own way to supply the inputs of
the step (log entry 1). -/
def Obligations.UnknownWordIsPassedOver : Prop :=
  ∀ (p : Config.Params) (s : State), s.fault = none → s.wait = none → s.pc.toNat ≤ 0xFFE →
    decodeWith p s.fetchWord = none →
    ∃ (t : State) (o : StepOutcome), engine p s = .next (t, o) ∧ stepWith p s = .next t ∧
      t = { s with pc := s.pc + 2, dt := t.dt, st := t.st, keys := s.nextInput.keys,
                   rnd := s.nextInput.rnd, inputs := s.inputs.tail,
                   inputTime := s.inputTime + 1 } ∧
      t.dt.toNat = s.dt.toNat - 1 ∧ t.st.toNat = s.st.toNat - 1 ∧
      o.unknown = some (s.pc, s.fetchWord) ∧ o.frameChanged = false ∧ o.waiting = false ∧
      (o.soundEnd = true ↔ s.st = 1) ∧ o.fault = none

/-- A step in the fault state changes no state at all and reports the fault (60_exceptions.md
section 2, decision D5). -/
def Obligations.FaultStateIsSticky : Prop :=
  ∀ (s : State) (c : FaultCode), s.fault = some c →
    step s = .next s ∧
    engine Config.params s = .next (s,
      { frameChanged := false, unknown := none, waiting := s.wait.isSome, soundEnd := false,
        fault := some c })

/-- The key-wait cycle (40_engine.md section 4, decision D9): no fetch; the lowest pressed key of this
step's snapshot goes to V[x], the wait ends and pc moves on by 2; with no key pressed the wait and pc
stay. Both timers tick, and no such step faults. THE MODEL'S CHOICE: `rnd`, `inputs` and
`inputTime` are its own way to supply the inputs of the step (log entry 1). -/
def Obligations.KeyWaitCycle : Prop :=
  ∀ (s : State) (x : Reg), s.fault = none → s.wait = some x →
    ∃ t, step s = .next t ∧
      t = { s with v := t.v, pc := t.pc, wait := t.wait, dt := t.dt, st := t.st,
                   keys := s.nextInput.keys, rnd := s.nextInput.rnd, inputs := s.inputs.tail,
                   inputTime := s.inputTime + 1 } ∧
      t.dt.toNat = s.dt.toNat - 1 ∧ t.st.toNat = s.st.toNat - 1 ∧
      (s.nextInput.keys = 0 → t.v = s.v ∧ t.pc = s.pc ∧ t.wait = some x) ∧
      ∀ k < 16, s.nextInput.keys.getLsbD k = true →
        (∀ j < k, s.nextInput.keys.getLsbD j = false) →
        t.wait = none ∧ t.pc = s.pc + 2 ∧
          ∀ r : Reg, t.v[r] = if r = x then BitVec.ofNat 8 k else s.v[r]

/-- The timer tick (40_engine.md R108): after the instruction's effects every non-faulting step takes
each timer down by 1, and never below 0, so FX15 and FX18 leave their value less 1 and FX07 reads DT
from before the tick; a step that faults, or that is taken in the fault state, does not tick. -/
def Obligations.TimersTickOncePerStep : Prop :=
  ∀ s t : State, step s = .next t →
    (t.fault ≠ none → t.dt = s.dt ∧ t.st = s.st) ∧
    (t.fault = none →
      (∀ x, s.Executes (.ldDtX x) → t.dt.toNat = s.v[x].toNat - 1) ∧
      (∀ x, s.Executes (.ldStX x) → t.st.toNat = s.v[x].toNat - 1) ∧
      (∀ x, s.Executes (.ldXDt x) → t.v[x] = s.dt) ∧
      ((∀ x, ¬ s.Executes (.ldDtX x)) → t.dt.toNat = s.dt.toNat - 1) ∧
      ((∀ x, ¬ s.Executes (.ldStX x)) → t.st.toNat = s.st.toNat - 1))

/-- Over a run of k steps without a fault and without FX15 or FX18, each timer falls by the lesser of k
and its start value (46_timers_keys.md, the timer laws, which the spec marks as derived). -/
def Obligations.TimersOverARun : Prop :=
  ∀ (k : Nat) (s t : State) (l : List State), trace k s = some (l, t) →
    (∀ u ∈ l, u.fault = none) → t.fault = none →
    (∀ u ∈ l, ∀ x, ¬ u.Executes (.ldDtX x) ∧ ¬ u.Executes (.ldStX x)) →
    t.dt.toNat = s.dt.toNat - min k s.dt.toNat ∧ t.st.toNat = s.st.toNat - min k s.st.toNat

/-- The keys an instruction sees are this step's snapshot: a non-faulting step leaves in `keys` the
`keys_in` it was given (40_engine.md section 1, decision D1; the model's way to supply it is log
entry 1), a faulting one leaves `keys` as it was, and no instruction writes `keys`. -/
def Obligations.KeysAreTheStepsSnapshot : Prop :=
  (∀ s t : State, step s = .next t →
    (t.fault = none → t.keys = s.nextInput.keys) ∧ (t.fault ≠ none → t.keys = s.keys)) ∧
  ∀ (i : Instr) (s t : State), exec i s = .next t → t.keys = s.keys

/-- The Outcome of a non-faulting step (40_engine.md section 6, decisions D19 and D21). -/
def Obligations.OutcomeOfANonFaultingStep : Prop :=
  ∀ (s t : State) (o : StepOutcome), engine Config.params s = .next (t, o) → t.fault = none →
    (o.frameChanged = true ↔ s.Executes .cls ∨ ∃ x y n, s.Executes (.drw x y n)) ∧
    (∀ a w, o.unknown = some (a, w) ↔
      s.wait = none ∧ decode s.fetchWord = none ∧ a = s.pc ∧ w = s.fetchWord) ∧
    (o.waiting = true ↔ t.wait ≠ none) ∧
    (o.soundEnd = true ↔ s.st ≠ 0 ∧ t.st = 0) ∧
    o.fault = none

/-! ### Faults -/

/-- A fault is precise: the step that raises it changes nothing but the fault state, its info is the pc
of the faulting instruction, and its Outcome reports the fault and nothing else, under every
choice of P_9XY0 and P_0NNN (40_engine.md sections 1 and 7 and 60_exceptions.md section 2,
decision D5). That the step leaves `inputs` and `inputTime` too is the model's choice (log
entry 8). -/
def Obligations.FaultsArePrecise : Prop :=
  (∀ (s t : State) (c : FaultCode), s.fault = none → step s = .next t → t.fault = some c →
    t = { s with fault := some c } ∧ t.faultInfo = some (c, s.pc)) ∧
  ∀ (p : Config.Params) (s t : State) (o : StepOutcome) (c : FaultCode), s.fault = none →
    engine p s = .next (t, o) → t.fault = some c →
    stepWith p s = .next t ∧ t = { s with fault := some c } ∧ t.faultInfo = some (c, s.pc) ∧
      o = { frameChanged := false, unknown := none, waiting := false, soundEnd := false,
            fault := some c }

/-- When each fault is raised, and that nothing else raises one (60_exceptions.md sections 2 and 3,
decisions D4 and D6). -/
def Obligations.FaultsHappenExactlyWhen : Prop :=
  ∀ s : State, s.fault = none → ∃ t, step s = .next t ∧
    (t.fault = some .fetchOutOfRange ↔ s.wait = none ∧ 0xFFE < s.pc.toNat) ∧
    (t.fault = some .stackOverflow ↔ ∃ nnn, s.Executes (.call nnn) ∧ s.sp.val = 16) ∧
    (t.fault = some .stackUnderflow ↔ s.Executes .ret ∧ s.sp.val = 0) ∧
    (t.fault = some .dataOutOfRange ↔
      (∃ x, s.Executes (.ldBX x) ∧ 0xFFF < s.i.toNat + 2) ∨
      (∃ x, (s.Executes (.ldMemX x) ∨ s.Executes (.ldXMem x)) ∧ 0xFFF < s.i.toNat + x.val) ∨
      (∃ x y n, s.Executes (.drw x y n) ∧ 1 ≤ n.toNat ∧ 0xFFF < s.i.toNat + n.toNat - 1)) ∧
    (t.fault = some .drawOutOfRange ↔
      ∃ x y n, s.Executes (.drw x y n) ∧ (n.toNat = 0 ∨ s.i.toNat + n.toNat - 1 ≤ 0xFFF) ∧
        ∃ r < n.toNat, ∃ c < 8, (s.mem.read (s.i.toNat + r)).getLsbD (7 - c) = true ∧
          (63 < s.v[x].toNat + c ∨ 31 < s.v[y].toNat + r)) ∧
    (t.fault = some .keyOutOfRange ↔
      ∃ x, (s.Executes (.skp x) ∨ s.Executes (.sknp x)) ∧ 15 < s.v[x].toNat)

/-- Every step, in every state and under every parameter choice, answers a next state: the block has no
stop but its own fault state (60_exceptions.md sections 1 and 2). -/
def Obligations.EveryStepAnswersANextState : Prop :=
  ∀ (p : Config.Params) (s : State), ∃ r, engine p s = .next r

/-! ### Invariant -/

/-- The invariant is kept by every step: memory stays canonical within 0x000-0xFFF, pc stays at most
0x10FE and so never wraps, and at most 0xFFE in a key-wait, every stack entry stays at most 0xFFE
(10_state.md section 3 and 41_flow.md, marked as derived). -/
def Obligations.StepKeepsTheInvariant : Prop :=
  ∀ s t : State, Inv s → step s = .next t → Inv t

/-- The invariant holds after reset. -/
def Obligations.ResetMeetsTheInvariant : Prop := Inv State.reset

/-- The host's actions keep the invariant: a load that succeeds, clearing the dirty flag, and a reset
with any FONT and any mem0 (70_reset_and_hazards.md sections 1 to 3). -/
def Obligations.HostActionsKeepTheInvariant : Prop :=
  (∀ (bytes : List Byte) (s t : State), Inv s → s.loadProgram bytes = .next t → Inv t) ∧
  (∀ s : State, Inv s → Inv s.clearDirty) ∧
  (∀ (font : Vector Byte 80) (mem0 : Vector Byte 4096) (s : State), Inv (s.hostReset font mem0))

/-! ### Whole-machine rules -/

/-- Who writes VF (10_state.md R22): the seven flag instructions leave a flag in it, 0 or 1, whatever X
is; every other instruction leaves it unless its destination field X, or the range of FX65, names
register 15. -/
def Obligations.OnlyTheseInstructionsWriteVF : Prop :=
  ∀ (i : Instr) (s t : State), exec i s = .next t → s.fault = none → t.fault = none →
    match i with
    | .addReg _ _ | .subReg _ _ | .shr _ _ | .subnReg _ _ | .shl _ _ | .drw _ _ _ | .addIX _ =>
      t.v[15] = 0 ∨ t.v[15] = 1
    | .ldImm x _ | .addImm x _ | .ldReg x _ | .orReg x _ | .andReg x _ | .xorReg x _ | .rnd x _
    | .ldXDt x | .ldXK x | .ldXMem x => x ≠ 15 → t.v[15] = s.v[15]
    | _ => t.v[15] = s.v[15]

/-- Which instruction may write which piece of state other than the general registers, pc and the fault
state; everything else it leaves as it was, the model's own fields too (10_state.md sections 4 to
9; 20_memory.md section 4). The registers, pc and the fault state are in
`RegistersPcAndFaultHaveTheirWriters`. -/
def Obligations.EachFieldHasItsWriters : Prop :=
  ∀ (i : Instr) (s t : State), exec i s = .next t →
    ((∀ nnn, i ≠ .call nnn) → t.stack = s.stack) ∧
    ((∀ nnn, i ≠ .call nnn) → i ≠ .ret → t.sp = s.sp) ∧
    ((∀ nnn, i ≠ .ldI nnn) → (∀ x, i ≠ .addIX x ∧ i ≠ .ldFX x ∧ i ≠ .ldMemX x ∧ i ≠ .ldXMem x) →
      t.i = s.i) ∧
    ((∀ x, i ≠ .ldDtX x) → t.dt = s.dt) ∧
    ((∀ x, i ≠ .ldStX x) → t.st = s.st) ∧
    (i ≠ .cls → (∀ x y n, i ≠ .drw x y n) → t.fb = s.fb ∧ t.dirty = s.dirty) ∧
    ((∀ x, i ≠ .ldXK x) → t.wait = s.wait) ∧
    ((∀ x, i ≠ .ldBX x ∧ i ≠ .ldMemX x) → t.mem = s.mem) ∧
    t.keys = s.keys ∧ t.rnd = s.rnd ∧ t.inputs = s.inputs ∧ t.inputTime = s.inputTime

/-- Which instruction may write which general register, how pc may move, and which may raise a fault
(10_state.md sections 2, 3 and 10; 40_engine.md section 2). A register other than the destination,
the flag register of a flag instruction, or the range of FX65 stays; pc moves by 2, or by 2 or 4 in
a skip, except in a control transfer, in an FX0A that enters the key-wait and where a fault is
raised; eight instructions may raise a fault (decision D4), and then change nothing else
(decision D5). -/
def Obligations.RegistersPcAndFaultHaveTheirWriters : Prop :=
  ∀ (i : Instr) (s t : State), exec i s = .next t →
    (∀ r : Reg, t.v[r] ≠ s.v[r] →
      match i with
      | .ldImm x _ | .addImm x _ | .ldReg x _ | .orReg x _ | .andReg x _ | .xorReg x _ | .rnd x _
      | .ldXDt x | .ldXK x => r = x
      | .addReg x _ | .subReg x _ | .shr x _ | .subnReg x _ | .shl x _ => r = x ∨ r = 15
      | .drw _ _ _ | .addIX _ => r = 15
      | .ldXMem x => r ≤ x
      | _ => False) ∧
    (match i with
      | .jp _ | .call _ | .ret | .jpV0 _ => True
      | .seImm _ _ | .sneImm _ _ | .seReg _ _ | .sneReg _ _ => t.pc = s.pc + 2 ∨ t.pc = s.pc + 4
      | .skp _ | .sknp _ =>
        t.pc = s.pc + 2 ∨ t.pc = s.pc + 4 ∨ t = { s with fault := some .keyOutOfRange }
      | .ldXK x => t.pc = s.pc + 2 ∨ t = { s with wait := some x }
      | .ldBX _ | .ldMemX _ | .ldXMem _ =>
        t.pc = s.pc + 2 ∨ t = { s with fault := some .dataOutOfRange }
      | .drw _ _ _ =>
        t.pc = s.pc + 2 ∨ t = { s with fault := some .dataOutOfRange } ∨
          t = { s with fault := some .drawOutOfRange }
      | _ => t.pc = s.pc + 2) ∧
    (match i with
      | .call _ => t.fault = s.fault ∨ t = { s with fault := some .stackOverflow }
      | .ret => t.fault = s.fault ∨ t = { s with fault := some .stackUnderflow }
      | .ldBX _ | .ldMemX _ | .ldXMem _ =>
        t.fault = s.fault ∨ t = { s with fault := some .dataOutOfRange }
      | .drw _ _ _ => t.fault = s.fault ∨ t = { s with fault := some .dataOutOfRange } ∨
          t = { s with fault := some .drawOutOfRange }
      | .skp _ | .sknp _ => t.fault = s.fault ∨ t = { s with fault := some .keyOutOfRange }
      | _ => t.fault = s.fault)

/-- The dirty flag (10_state.md R40): 00E0 and DXYN set it every time they execute, whether or not a
cell changed; no instruction clears it or reads it; the host clears it. -/
def Obligations.DirtyIsSetByDrawingAndClearedByTheHost : Prop :=
  (∀ s t : State, s.fault = none → t.fault = none → exec .cls s = .next t → t.dirty = true) ∧
  (∀ (x y : Reg) (n : Rows) (s t : State), s.fault = none → t.fault = none →
    exec (.drw x y n) s = .next t → t.dirty = true) ∧
  (∀ s t : State, step s = .next t → s.dirty = true → t.dirty = true) ∧
  (∀ (i : Instr) (s t : State), exec i s = .next t → i ≠ .cls → (∀ x y n, i ≠ .drw x y n) →
    t.dirty = s.dirty) ∧
  (∀ (i : Instr) (s t : State) (b : Bool), exec i s = .next t →
    ∃ u, exec i { s with dirty := b } = .next u ∧ u = { t with dirty := u.dirty }) ∧
  (∀ s : State, s.clearDirty = { s with dirty := false })

/-- Stores touch only their bytes: an instruction that is neither FX33 nor FX55 leaves every byte of
memory; FX33 leaves every byte outside A to A+2, FX55 every byte outside A to A+X (20_memory.md
section 4; the address A is the exact value of I). -/
def Obligations.StoresTouchOnlyTheirBytes : Prop :=
  ∀ (i : Instr) (s t : State), Memory.wf s.mem → exec i s = .next t → ∀ a : Nat,
    match i with
    | .ldBX _ => (a < s.base ∨ s.base + 2 < a) → t.mem.read a = s.mem.read a
    | .ldMemX x => (a < s.base ∨ s.base + x.val < a) → t.mem.read a = s.mem.read a
    | _ => t.mem.read a = s.mem.read a

/-- Loads depend only on their bytes: with memory changed outside the bytes an instruction reads (DXYN
and FX65 through I; no other instruction reads memory), it does the same to everything but memory
(20_memory.md section 4; a skip never looks at the word it skips, 42_skip.md). -/
def Obligations.LoadsReadOnlyTheirBytes : Prop :=
  ∀ (i : Instr) (s t : State) (m : Memory), exec i s = .next t →
    (match i with
      | .drw _ _ n => ∀ r < n.toNat, m.read (s.base + r) = s.mem.read (s.base + r)
      | .ldXMem x => ∀ r ≤ x.val, m.read (s.base + r) = s.mem.read (s.base + r)
      | _ => True) →
    ∃ u, exec i { s with mem := m } = .next u ∧ u = { t with mem := u.mem }

/-- The random byte matters only to CXNN: with another draw every other instruction does the same
(40_engine.md section 8, decision D20). -/
def Obligations.RandomByteMattersOnlyToRnd : Prop :=
  ∀ (i : Instr) (s t : State) (b : Byte), (∀ x nn, i ≠ .rnd x nn) → exec i s = .next t →
    exec i { s with rnd := b } = .next { t with rnd := b }

/-! ### Control transfer -/

/-- SYS advances pc by 2 and does nothing else, whatever NNN (41_flow.md, decision D3, general
knowledge; log entry 4). -/
def Obligations.SysOnlyAdvances : Prop :=
  ∀ (nnn : Addr12) (s : State), exec (.sys nnn) s = .next { s with pc := s.pc + 2 }

/-- JP and JP V0 (41_flow.md R122, R124): pc is NNN, or the exact sum NNN + V0, which is at most 0x10FE
and is not reduced; nothing else changes; nothing is raised at the jump, and a target above 0xFFE
faults at the next fetch. -/
def Obligations.JumpsLand : Prop :=
  ∀ (nnn : Addr12) (s : State),
    (∃ t, exec (.jp nnn) s = .next t ∧ t = { s with pc := t.pc } ∧ t.pc.toNat = nnn.toNat ∧
      (s.fault = none → s.wait = none → 0xFFE < t.pc.toNat →
        step t = .next { t with fault := some .fetchOutOfRange })) ∧
    (∃ t, exec (.jpV0 nnn) s = .next t ∧ t = { s with pc := t.pc } ∧
      t.pc.toNat = nnn.toNat + s.v[0].toNat ∧ t.pc.toNat ≤ 0x10FE ∧
      (s.fault = none → s.wait = none → 0xFFE < t.pc.toNat →
        step t = .next { t with fault := some .fetchOutOfRange }))

/-- CALL (41_flow.md R123): the address of the CALL itself goes to stack[SP], SP rises by 1, pc is NNN;
with SP = 16 it raises STACK_OVERFLOW (the spec's decision D4). -/
def Obligations.CallPushes : Prop :=
  ∀ (nnn : Addr12) (s : State),
    (s.sp.val < 16 → ∃ t, exec (.call nnn) s = .next t ∧
      t = { s with stack := t.stack, sp := t.sp, pc := t.pc } ∧
      (∀ j : Fin 16, t.stack[j] = if j.val = s.sp.val then s.pc else s.stack[j]) ∧
      t.sp.val = s.sp.val + 1 ∧ t.pc.toNat = nnn.toNat) ∧
    (s.sp.val = 16 → exec (.call nnn) s = .next { s with fault := some .stackOverflow })

/-- RET (41_flow.md R121): SP falls by 1 and pc is stack[SP], read with the decremented SP, plus 2; the
entry keeps its value; with SP = 0 it raises STACK_UNDERFLOW (the spec's decision D4). -/
def Obligations.RetPops : Prop :=
  ∀ s : State,
    (∀ j : Fin 16, s.sp.val = j.val + 1 → ∃ t, exec .ret s = .next t ∧
      t = { s with sp := t.sp, pc := s.stack[j] + 2 } ∧ t.sp.val = j.val) ∧
    (s.sp.val = 0 → exec .ret s = .next { s with fault := some .stackUnderflow })

/-- Call and return round trip over a run (41_flow.md, a law the spec marks as derived): if the step from
s completes a CALL and the next stack operation of the run is a RET, that RET comes back to the
instruction after the CALL, whatever the subroutine did. -/
def Obligations.CallThenRetComesBack : Prop :=
  ∀ (k : Nat) (s t u : State) (nnn : Addr12) (l : List State), s.Executes (.call nnn) →
    s.sp.val < 16 → step s = .next t → trace k t = some (l, u) →
    (∀ w ∈ l, ¬ w.Executes .ret ∧ ∀ m, ¬ w.Executes (.call m)) → u.Executes .ret →
    ∃ r, step u = .next r ∧ r.fault = none ∧ r.pc = s.pc + 2 ∧ r.sp = s.sp

/-! ### Skips -/

/-- SE Vx, nn; SNE Vx, nn; SE Vx, Vy (42_skip.md R140, R141, R142): pc + 4 if the condition holds, else
pc + 2; nothing else changes. -/
def Obligations.RegisterSkips : Prop :=
  ∀ s : State,
    (∀ x nn, exec (.seImm x nn) s =
      .next { s with pc := if s.v[x].toNat = nn.toNat then s.pc + 4 else s.pc + 2 }) ∧
    (∀ x nn, exec (.sneImm x nn) s =
      .next { s with pc := if s.v[x].toNat = nn.toNat then s.pc + 2 else s.pc + 4 }) ∧
    (∀ x y, exec (.seReg x y) s =
      .next { s with pc := if s.v[x].toNat = s.v[y].toNat then s.pc + 4 else s.pc + 2 })

/-- SNE Vx, Vy (42_skip.md, decision D2, general knowledge; log entry 4). -/
def Obligations.SneRegSkips : Prop :=
  ∀ (s : State) (x y : Reg), exec (.sneReg x y) s =
    .next { s with pc := if s.v[x].toNat = s.v[y].toNat then s.pc + 2 else s.pc + 4 }

/-- A taken skip at pc 0xFFC or above, by any of the six skip instructions, completes, and the next step
faults at its fetch (40_engine.md section 2 and 42_skip.md, marked as derived). -/
def Obligations.SkipPastTheTopFaultsAtTheNextFetch : Prop :=
  ∀ (s t : State) (i : Instr), s.Executes i →
    ((∃ x nn, i = .seImm x nn ∨ i = .sneImm x nn) ∨ (∃ x y, i = .seReg x y ∨ i = .sneReg x y) ∨
      ∃ x, i = .skp x ∨ i = .sknp x) →
    step s = .next t → t.pc = s.pc + 4 → 0xFFC ≤ s.pc.toNat →
    t.fault = none ∧ 0x1000 ≤ t.pc.toNat ∧
      step t = .next { t with fault := some .fetchOutOfRange }

/-! ### ALU -/

/-- LD Vx, nn; ADD Vx, nn; LD Vx, Vy (43_alu.md R160, R161, R162): the destination register and pc + 2;
every other register, VF with them unless x = F, and everything else stays; the sum is modulo 256
and its carry is discarded. -/
def Obligations.LoadsAndAddImmediate : Prop :=
  ∀ (s : State) (x : Reg),
    (∀ nn, ∃ t, exec (.ldImm x nn) s = .next t ∧ t = { s with v := t.v, pc := s.pc + 2 } ∧
      t.v[x] = nn ∧ ∀ r : Reg, r ≠ x → t.v[r] = s.v[r]) ∧
    (∀ nn, ∃ t, exec (.addImm x nn) s = .next t ∧ t = { s with v := t.v, pc := s.pc + 2 } ∧
      t.v[x].toNat = (s.v[x].toNat + nn.toNat) % 256 ∧ ∀ r : Reg, r ≠ x → t.v[r] = s.v[r]) ∧
    (∀ y, ∃ t, exec (.ldReg x y) s = .next t ∧ t = { s with v := t.v, pc := s.pc + 2 } ∧
      t.v[x] = s.v[y] ∧ ∀ r : Reg, r ≠ x → t.v[r] = s.v[r])

/-- OR, AND, XOR (43_alu.md R163, R164, R165): bit by bit, no flag. -/
def Obligations.BitwiseOperations : Prop :=
  ∀ (s : State) (x y : Reg),
    (∃ t, exec (.orReg x y) s = .next t ∧ t = { s with v := t.v, pc := s.pc + 2 } ∧
      (∀ k < 8, t.v[x].getLsbD k = (s.v[x].getLsbD k || s.v[y].getLsbD k)) ∧
      ∀ r : Reg, r ≠ x → t.v[r] = s.v[r]) ∧
    (∃ t, exec (.andReg x y) s = .next t ∧ t = { s with v := t.v, pc := s.pc + 2 } ∧
      (∀ k < 8, t.v[x].getLsbD k = (s.v[x].getLsbD k && s.v[y].getLsbD k)) ∧
      ∀ r : Reg, r ≠ x → t.v[r] = s.v[r]) ∧
    (∃ t, exec (.xorReg x y) s = .next t ∧ t = { s with v := t.v, pc := s.pc + 2 } ∧
      (∀ k < 8, t.v[x].getLsbD k = (s.v[x].getLsbD k != s.v[y].getLsbD k)) ∧
      ∀ r : Reg, r ≠ x → t.v[r] = s.v[r])

/-- ADD Vx, Vy (43_alu.md R166): the sum modulo 256, VF 1 iff the unsigned sum exceeds 255; with x = F
the flag stands (decision D7); every other register and everything else stays. -/
def Obligations.AddWithCarry : Prop :=
  ∀ (s : State) (x y : Reg), ∃ t, exec (.addReg x y) s = .next t ∧
    t = { s with v := t.v, pc := s.pc + 2 } ∧
    t.v[15].toNat = (if 255 < s.v[x].toNat + s.v[y].toNat then 1 else 0) ∧
    (x ≠ 15 → t.v[x].toNat = (s.v[x].toNat + s.v[y].toNat) % 256) ∧
    ∀ r : Reg, r ≠ x → r ≠ 15 → t.v[r] = s.v[r]

/-- SUB and SUBN (43_alu.md R167, R169): the difference modulo 256, VF 0 iff a borrow occurred; with
x = F the flag stands (decision D7); every other register and everything else stays. -/
def Obligations.SubtractWithNotBorrow : Prop :=
  ∀ (s : State) (x y : Reg),
    (∃ t, exec (.subReg x y) s = .next t ∧ t = { s with v := t.v, pc := s.pc + 2 } ∧
      t.v[15].toNat = (if s.v[x].toNat < s.v[y].toNat then 0 else 1) ∧
      (x ≠ 15 → t.v[x].toNat = (s.v[x].toNat + 256 - s.v[y].toNat) % 256) ∧
      ∀ r : Reg, r ≠ x → r ≠ 15 → t.v[r] = s.v[r]) ∧
    (∃ t, exec (.subnReg x y) s = .next t ∧ t = { s with v := t.v, pc := s.pc + 2 } ∧
      t.v[15].toNat = (if s.v[y].toNat < s.v[x].toNat then 0 else 1) ∧
      (x ≠ 15 → t.v[x].toNat = (s.v[y].toNat + 256 - s.v[x].toNat) % 256) ∧
      ∀ r : Reg, r ≠ x → r ≠ 15 → t.v[r] = s.v[r])

/-- SHR (43_alu.md, decision D7 for x = F): a logical shift of V[X] right by one bit, VF the bit shifted
out; with x = F the flag stands; the Y register is neither read nor written. -/
def Obligations.ShiftRight : Prop :=
  ∀ (s : State) (x y : Reg), ∃ t, exec (.shr x y) s = .next t ∧
    t = { s with v := t.v, pc := s.pc + 2 } ∧
    t.v[15].toNat = s.v[x].toNat % 2 ∧ (x ≠ 15 → t.v[x].toNat = s.v[x].toNat / 2) ∧
    ∀ r : Reg, r ≠ x → r ≠ 15 → t.v[r] = s.v[r]

/-- SHL (43_alu.md R170): a shift of V[X] left by one bit, VF the bit shifted out; with x = F the flag
stands (decision D7); the Y register is neither read nor written. -/
def Obligations.ShiftLeft : Prop :=
  ∀ (s : State) (x y : Reg), ∃ t, exec (.shl x y) s = .next t ∧
    t = { s with v := t.v, pc := s.pc + 2 } ∧
    t.v[15].toNat = s.v[x].toNat / 128 ∧ (x ≠ 15 → t.v[x].toNat = s.v[x].toNat * 2 % 256) ∧
    ∀ r : Reg, r ≠ x → r ≠ 15 → t.v[r] = s.v[r]

/-- RND (43_alu.md, decision D20): for every draw, V[X] is the draw AND NN, bit by bit, so only the bits
set in NN can be 1; no flag. -/
def Obligations.RndMasksTheDraw : Prop :=
  ∀ (s : State) (x : Reg) (nn : Byte), ∃ t, exec (.rnd x nn) s = .next t ∧
    t = { s with v := t.v, pc := s.pc + 2 } ∧
    (∀ k < 8, t.v[x].getLsbD k = (s.rnd.getLsbD k && nn.getLsbD k)) ∧
    ∀ r : Reg, r ≠ x → t.v[r] = s.v[r]

/-! ### Index register and memory -/

/-- LD I, nnn and LD F, Vx (44_index_memory.md R190, R194): I is NNN, or V[X] * 5, which is at most 0x4FB;
pc + 2; nothing else changes. -/
def Obligations.IndexLoads : Prop :=
  ∀ s : State,
    (∀ nnn, ∃ t, exec (.ldI nnn) s = .next t ∧ t = { s with i := t.i, pc := s.pc + 2 } ∧
      t.i.toNat = nnn.toNat) ∧
    (∀ x, ∃ t, exec (.ldFX x) s = .next t ∧ t = { s with i := t.i, pc := s.pc + 2 } ∧
      t.i.toNat = s.v[x].toNat * 5 ∧ t.i.toNat ≤ 0x4FB)

/-- ADD I, Vx (44_index_memory.md, decisions D7 and D8): I is the sum modulo 2^16, VF is 1 iff the exact
sum is above 0xFFF, and with x = F the flag stands; no memory access, no fault. -/
def Obligations.AddToIndex : Prop :=
  ∀ (s : State) (x : Reg), ∃ t, exec (.addIX x) s = .next t ∧
    t = { s with v := t.v, i := t.i, pc := s.pc + 2 } ∧
    t.i.toNat = (s.i.toNat + s.v[x].toNat) % 65536 ∧
    t.v[15].toNat = (if 0xFFF < s.i.toNat + s.v[x].toNat then 1 else 0) ∧
    ∀ r : Reg, r ≠ 15 → t.v[r] = s.v[r]

/-- LD B, Vx (44_index_memory.md R196): hundreds, tens and units at A, A+1, A+2; I and every other byte
stay; with A + 2 above 0xFFF it raises DATA_OUT_OF_RANGE (the spec's decision D4). The address
stored to is `State.base`. -/
def Obligations.DecimalStore : Prop :=
  ∀ (s : State) (x : Reg), Memory.wf s.mem →
    (s.base + 2 ≤ 0xFFF → ∃ t, exec (.ldBX x) s = .next t ∧
      t = { s with mem := t.mem, pc := s.pc + 2 } ∧
      (t.mem.read s.base).toNat = s.v[x].toNat / 100 ∧
      (t.mem.read (s.base + 1)).toNat = s.v[x].toNat / 10 % 10 ∧
      (t.mem.read (s.base + 2)).toNat = s.v[x].toNat % 10 ∧
      ∀ a, a < s.base ∨ s.base + 2 < a → t.mem.read a = s.mem.read a) ∧
    (0xFFF < s.base + 2 → exec (.ldBX x) s = .next { s with fault := some .dataOutOfRange })

/-- LD [I], Vx (44_index_memory.md, decisions D4 and D8): byte A+j gets Vj for every j up to X, every
other byte stays, I moves to A + X + 1; with A + X above 0xFFF it raises DATA_OUT_OF_RANGE and
stores nothing. The address stored to is `State.base`. -/
def Obligations.RegisterStore : Prop :=
  ∀ (s : State) (x : Reg), Memory.wf s.mem →
    (s.base + x.val ≤ 0xFFF → ∃ t, exec (.ldMemX x) s = .next t ∧
      t = { s with mem := t.mem, i := t.i, pc := s.pc + 2 } ∧
      t.i.toNat = s.base + x.val + 1 ∧
      (∀ j : Reg, j ≤ x → t.mem.read (s.base + j.val) = s.v[j]) ∧
      ∀ a, a < s.base ∨ s.base + x.val < a → t.mem.read a = s.mem.read a) ∧
    (0xFFF < s.base + x.val → exec (.ldMemX x) s = .next { s with fault := some .dataOutOfRange })

/-- LD Vx, [I] (44_index_memory.md, decisions D4 and D8): Vj gets byte A+j for every j up to X, every
other register stays, I moves to A + X + 1; with A + X above 0xFFF it raises DATA_OUT_OF_RANGE and
loads nothing. -/
def Obligations.RegisterLoad : Prop :=
  ∀ (s : State) (x : Reg),
    (s.base + x.val ≤ 0xFFF → ∃ t, exec (.ldXMem x) s = .next t ∧
      t = { s with v := t.v, i := t.i, pc := s.pc + 2 } ∧
      t.i.toNat = s.base + x.val + 1 ∧
      ∀ j : Reg, t.v[j] = if j ≤ x then s.mem.read (s.base + j.val) else s.v[j]) ∧
    (0xFFF < s.base + x.val → exec (.ldXMem x) s = .next { s with fault := some .dataOutOfRange })

/-- A store is seen by the very next fetch (20_memory.md section 6, marked as derived). After the step of
an FX33 or FX55 that completes and stores the n bytes b 0, b 1, ... at A, pc is the next word, and
each of the two bytes fetched there is the byte just stored where the store covers its address,
and the byte from before where it does not; the next step runs what that word decodes to. The
step itself ran the word fetched before the store, whatever the store did to it. -/
def Obligations.NextFetchSeesTheStore : Prop :=
  ∀ (s : State) (i : Instr) (n : Nat) (b : Nat → Byte), Memory.wf s.mem → s.Executes i →
    ((∃ x, i = .ldBX x ∧ n = 3 ∧ (b 0).toNat = s.v[x].toNat / 100 ∧
        (b 1).toNat = s.v[x].toNat / 10 % 10 ∧ (b 2).toNat = s.v[x].toNat % 10) ∨
      (∃ x, i = .ldMemX x ∧ n = x.val + 1 ∧ ∀ j : Reg, j ≤ x → b j.val = s.v[j])) →
    s.base + n ≤ 0x1000 →
    ∃ (t : State) (hi lo : Byte), step s = .next t ∧ t.fault = none ∧ t.pc = s.pc + 2 ∧
      (∀ k < n, t.mem.read (s.base + k) = b k) ∧
      t.fetchWord = wordOfBytes hi lo ∧
      (∀ k < n, s.base + k = s.pc.toNat + 2 → hi = b k) ∧
      ((s.pc.toNat + 2 < s.base ∨ s.base + n ≤ s.pc.toNat + 2) →
        hi = s.mem.read (s.pc.toNat + 2)) ∧
      (∀ k < n, s.base + k = s.pc.toNat + 3 → lo = b k) ∧
      ((s.pc.toNat + 3 < s.base ∨ s.base + n ≤ s.pc.toNat + 3) →
        lo = s.mem.read (s.pc.toNat + 3)) ∧
      ∀ j, s.pc.toNat ≤ 0xFFC → decode (wordOfBytes hi lo) = some j → t.Executes j

/-! ### Framebuffer -/

/-- CLS (45_display.md R210): every cell 0, dirty true, pc + 2; VF and everything else stay. -/
def Obligations.ClsClears : Prop :=
  ∀ s : State, ∃ t, exec .cls s = .next t ∧
    t = { s with fb := t.fb, dirty := true, pc := s.pc + 2 } ∧
    ∀ a < 64, ∀ b < 32, t.fb.cell a b = false

/-- DRW (45_display.md, decisions D4 and D10): with its sprite bytes in memory and its set bits on the
grid, each cell under a set bit is toggled and every other cell stays, VF is 1 iff a cell under a
set bit was 1, dirty is true. Column c of row r is bit 7 - c of byte A + r; the coordinates are V[X]
and V[Y] at the start, not reduced. -/
def Obligations.DrwDraws : Prop :=
  ∀ (s : State) (x y : Reg) (n : Rows),
    (n.toNat = 0 ∨ s.base + n.toNat - 1 ≤ 0xFFF) →
    (∀ r < n.toNat, ∀ c < 8, (s.mem.read (s.base + r)).getLsbD (7 - c) = true →
      s.v[x].toNat + c ≤ 63 ∧ s.v[y].toNat + r ≤ 31) →
    ∃ t, exec (.drw x y n) s = .next t ∧
      t = { s with v := t.v, fb := t.fb, dirty := true, pc := s.pc + 2 } ∧
      (∀ r < n.toNat, ∀ c < 8, (s.mem.read (s.base + r)).getLsbD (7 - c) = true →
        t.fb.cell (s.v[x].toNat + c) (s.v[y].toNat + r) =
          !s.fb.cell (s.v[x].toNat + c) (s.v[y].toNat + r)) ∧
      (∀ a < 64, ∀ b < 32,
        (¬ ∃ r < n.toNat, ∃ c < 8, (s.mem.read (s.base + r)).getLsbD (7 - c) = true ∧
          a = s.v[x].toNat + c ∧ b = s.v[y].toNat + r) → t.fb.cell a b = s.fb.cell a b) ∧
      ((∃ r < n.toNat, ∃ c < 8, (s.mem.read (s.base + r)).getLsbD (7 - c) = true ∧
        s.fb.cell (s.v[x].toNat + c) (s.v[y].toNat + r) = true) → t.v[15] = 1) ∧
      ((¬ ∃ r < n.toNat, ∃ c < 8, (s.mem.read (s.base + r)).getLsbD (7 - c) = true ∧
        s.fb.cell (s.v[x].toNat + c) (s.v[y].toNat + r) = true) → t.v[15] = 0) ∧
      ∀ r : Reg, r ≠ 15 → t.v[r] = s.v[r]

/-- Where DRW traps (45_display.md and 60_exceptions.md section 3, decisions D4 and D6): a sprite byte
above 0xFFF raises DATA_OUT_OF_RANGE, checked first; a set bit off the grid raises
DRAW_OUT_OF_RANGE. -/
def Obligations.DrwTraps : Prop :=
  ∀ (s : State) (x y : Reg) (n : Rows),
    (1 ≤ n.toNat → 0xFFF < s.base + n.toNat - 1 →
      exec (.drw x y n) s = .next { s with fault := some .dataOutOfRange }) ∧
    ((n.toNat = 0 ∨ s.base + n.toNat - 1 ≤ 0xFFF) →
      (∃ r < n.toNat, ∃ c < 8, (s.mem.read (s.base + r)).getLsbD (7 - c) = true ∧
        (63 < s.v[x].toNat + c ∨ 31 < s.v[y].toNat + r)) →
      exec (.drw x y n) s = .next { s with fault := some .drawOutOfRange })

/-- Double-draw law (45_display.md, marked as derived; log entry 13): two draws of the same sprite at the
same coordinates, both completing, leave the framebuffer as it was; the second sets VF exactly when
some cell under a set bit was 0 before the first, so exactly when the sprite has a set bit if those
cells were all 0; an all-zero sprite gives VF = 0 both times. -/
def Obligations.DrawingTwiceRestores : Prop :=
  ∀ (s t u : State) (x y : Reg) (n : Rows), s.fault = none → exec (.drw x y n) s = .next t →
    t.fault = none → exec (.drw x y n) t = .next u → u.fault = none →
    t.v[x] = s.v[x] → t.v[y] = s.v[y] →
    u.fb = s.fb ∧
    ((∃ r < n.toNat, ∃ c < 8, (s.mem.read (s.base + r)).getLsbD (7 - c) = true ∧
      s.fb.cell (s.v[x].toNat + c) (s.v[y].toNat + r) = false) → u.v[15] = 1) ∧
    ((¬ ∃ r < n.toNat, ∃ c < 8, (s.mem.read (s.base + r)).getLsbD (7 - c) = true ∧
      s.fb.cell (s.v[x].toNat + c) (s.v[y].toNat + r) = false) → u.v[15] = 0) ∧
    ((∀ r < n.toNat, ∀ c < 8, (s.mem.read (s.base + r)).getLsbD c = false) →
      t.v[15] = 0 ∧ u.v[15] = 0)

/-- EXPECTED TO FAIL. The double-draw law's clause on VF as the spec words it, "The second sets VF = 1
exactly when the sprite has at least one set bit" (45_display.md, marked as derived), for every
framebuffer. It disagrees with the rule of DXYN where every cell under a set bit was 1 before the
first draw: the first draw turns them all to 0 and the second then collides with nothing
(log entry 13). -/
def Obligations.SecondDrawCollidesIffTheSpriteHasASetBit : Prop :=
  ∀ (s t u : State) (x y : Reg) (n : Rows), s.fault = none → exec (.drw x y n) s = .next t →
    t.fault = none → exec (.drw x y n) t = .next u → u.fault = none →
    t.v[x] = s.v[x] → t.v[y] = s.v[y] →
    (u.v[15] = 1 ↔ ∃ r < n.toNat, ∃ c < 8, (s.mem.read (s.base + r)).getLsbD c = true)

/-! ### Keys and timers -/

/-- SKP and SKNP (46_timers_keys.md, decision D4): they skip by whether key V[X] is pressed in this step's
snapshot, and are exact complements; with V[X] above 15 they raise KEY_OUT_OF_RANGE. -/
def Obligations.KeySkips : Prop :=
  ∀ (s : State) (x : Reg),
    (∀ k : Fin 16, s.v[x].toNat = k.val →
      exec (.skp x) s =
        .next { s with pc := if s.keys.getLsbD k.val = true then s.pc + 4 else s.pc + 2 } ∧
      exec (.sknp x) s =
        .next { s with pc := if s.keys.getLsbD k.val = true then s.pc + 2 else s.pc + 4 }) ∧
    (15 < s.v[x].toNat →
      exec (.skp x) s = .next { s with fault := some .keyOutOfRange } ∧
      exec (.sknp x) s = .next { s with fault := some .keyOutOfRange })

/-- LD Vx, DT and LD DT, Vx (46_timers_keys.md R232, R233): each moves one byte and advances pc, and
nothing else changes; in a step the tick follows, so FX07 reads DT from before it and FX15 leaves
V[X] less 1, or 0. -/
def Obligations.DelayTimerMoves : Prop :=
  ∀ (s : State) (x : Reg),
    (∃ t, exec (.ldXDt x) s = .next t ∧ t = { s with v := t.v, pc := s.pc + 2 } ∧ t.v[x] = s.dt ∧
      ∀ r : Reg, r ≠ x → t.v[r] = s.v[r]) ∧
    exec (.ldDtX x) s = .next { s with dt := s.v[x], pc := s.pc + 2 } ∧
    (s.Executes (.ldXDt x) → ∃ t, step s = .next t ∧ t.v[x] = s.dt ∧
      t.dt.toNat = s.dt.toNat - 1) ∧
    (s.Executes (.ldDtX x) → ∃ t, step s = .next t ∧ t.dt.toNat = s.v[x].toNat - 1)

/-- LD ST, Vx (46_timers_keys.md, decision D21 for `sound_end`): it moves one byte and advances pc, and
nothing else changes; in a step the tick follows, so ST ends as V[X] less 1, or 0, and `sound_end`
is reported exactly when ST was nonzero and V[X] is 0 or 1. -/
def Obligations.SoundTimerMove : Prop :=
  ∀ (s : State) (x : Reg),
    exec (.ldStX x) s = .next { s with st := s.v[x], pc := s.pc + 2 } ∧
    (s.Executes (.ldStX x) → ∃ t o, engine Config.params s = .next (t, o) ∧ step s = .next t ∧
      t.st.toNat = s.v[x].toNat - 1 ∧ (o.soundEnd = true ↔ s.st ≠ 0 ∧ s.v[x].toNat ≤ 1))

/-- LD Vx, K (46_timers_keys.md, decision D9): a pressed key completes it at once, the lowest one's index
going to V[X]; with none pressed it enters the key-wait with X and pc stays. -/
def Obligations.WaitForKey : Prop :=
  ∀ (s : State) (x : Reg),
    (∀ k < 16, s.keys.getLsbD k = true → (∀ j < k, s.keys.getLsbD j = false) →
      ∃ t, exec (.ldXK x) s = .next t ∧ t = { s with v := t.v, pc := s.pc + 2 } ∧
        ∀ r : Reg, t.v[r] = if r = x then BitVec.ofNat 8 k else s.v[r]) ∧
    (s.keys = 0 → exec (.ldXK x) s = .next { s with wait := some x })

/-! ### Reset and the host -/

/-- The reset values the spec gives (10_state.md R21, R29, R31, R33, R35, R37, R39, R41), at power-on and
after any later reset. -/
def Obligations.ResetValues : Prop :=
  ∀ (font : Vector Byte 80) (mem0 : Vector Byte 4096) (s : State),
    ∀ r ∈ [State.reset, s.hostReset font mem0],
      (∀ j : Reg, r.v[j] = 0) ∧ r.pc = 0x200 ∧ r.i = 0 ∧ r.sp = 0 ∧
      (∀ j : Fin 16, r.stack[j] = 0) ∧ r.dt = 0 ∧ r.st = 0 ∧ r.keys = 0 ∧
      (∀ a < 64, ∀ b < 32, r.fb.cell a b = false) ∧ r.dirty = true

/-- After reset there is no key-wait and no fault state, at power-on and after any later reset; the block
can fetch, and the word it fetches is that of mem0 at 0x200, which is 0x0000 at power-on; where it
decodes, the next step executes it, and where it is Unknown, the next step passes over it
(10_state.md sections 9 and 10 and 70_reset_and_hazards.md section 1, decisions D5 and D15). -/
def Obligations.ResetEndsWaitAndFault : Prop :=
  (State.reset.wait = none ∧ State.reset.fault = none ∧ State.reset.canFetch = true ∧
    State.reset.fetchWord = 0x0000) ∧
  ∀ (font : Vector Byte 80) (mem0 : Vector Byte 4096) (s : State),
    (s.hostReset font mem0).wait = none ∧ (s.hostReset font mem0).fault = none ∧
    (s.hostReset font mem0).canFetch = true ∧
    (s.hostReset font mem0).fetchWord = wordOfBytes mem0[0x200] mem0[0x201] ∧
    (∀ i, decode (wordOfBytes mem0[0x200] mem0[0x201]) = some i →
      (s.hostReset font mem0).Executes i) ∧
    (decode (wordOfBytes mem0[0x200] mem0[0x201]) = none →
      ∃ t o, engine Config.params (s.hostReset font mem0) = .next (t, o) ∧ t.pc = 0x202 ∧
        o.unknown = some ((0x200 : Word), wordOfBytes mem0[0x200] mem0[0x201]))

/-- Memory after a reset (20_memory.md section 2, decisions D12 and D15): FONT at 0x000-0x04F and mem0
above it, for any FONT and mem0; with the default FONT and mem0 all zero, the memory of power-on
reset. The default glyph bytes are the spec's general knowledge (log entry 5). -/
def Obligations.MemoryAfterReset : Prop :=
  (∀ (font : Vector Byte 80) (mem0 : Vector Byte 4096) (s : State),
    Memory.wf (s.hostReset font mem0).mem ∧
    (∀ a : Fin 80, (s.hostReset font mem0).mem.read a.val = font[a]) ∧
    ∀ a : Fin 4096, 80 ≤ a.val → (s.hostReset font mem0).mem.read a.val = mem0[a]) ∧
  (∀ a : Fin 80, State.reset.mem.read a.val = Config.font.getD a.val 0) ∧
  (∀ a, 80 ≤ a → State.reset.mem.read a = 0) ∧
  ∀ (font : Vector Byte 80) (s : State), font.toList = Config.font →
    (s.hostReset font (Vector.replicate 4096 0)).mem = State.reset.mem

/-- `load_program` (70_reset_and_hazards.md section 2, decision D22): byte k of the image goes to
0x200 + k, every other byte and every other piece of state stays; more than 3584 bytes fail with
ImageTooLarge. -/
def Obligations.LoadProgram : Prop :=
  ∀ (bytes : List Byte) (s : State), Memory.wf s.mem →
    (bytes.length ≤ 3584 → ∃ t, s.loadProgram bytes = .next t ∧ t = { s with mem := t.mem } ∧
      (∀ k (h : k < bytes.length), t.mem.read (0x200 + k) = bytes[k]) ∧
      ∀ a, a < 0x200 ∨ 0x200 + bytes.length ≤ a → t.mem.read a = s.mem.read a) ∧
    (3584 < bytes.length → s.loadProgram bytes = .fault .imageTooLarge)
end

