-- ==== Sys2Proof/Laws/Decode.lean ====
section
/-! SUPPORT. The fields of a word and the layouts of the encoder as numbers (30_encoding.md R71, R80), so
that a round trip is arithmetic. -/
namespace Sys2Proof

theorem fieldF_eq (w : Word) : fieldF w = w.toNat / 4096 := by
  have := w.isLt
  simp only [fieldF, BitVec.extractLsb'_toNat, Nat.shiftRight_eq_div_pow]
  omega

theorem val_fieldX (w : Word) : (fieldX w).val = w.toNat / 256 % 16 := by
  change (w.extractLsb' 8 4).toNat = _
  simp only [BitVec.extractLsb'_toNat, Nat.shiftRight_eq_div_pow]

theorem val_fieldY (w : Word) : (fieldY w).val = w.toNat / 16 % 16 := by
  change (w.extractLsb' 4 4).toNat = _
  simp only [BitVec.extractLsb'_toNat, Nat.shiftRight_eq_div_pow]

theorem toNat_fieldN (w : Word) : (fieldN w).toNat = w.toNat % 16 := by
  simp only [fieldN, BitVec.extractLsb'_toNat, Nat.shiftRight_zero]

theorem toNat_fieldNN (w : Word) : (fieldNN w).toNat = w.toNat % 256 := by
  simp only [fieldNN, BitVec.extractLsb'_toNat, Nat.shiftRight_zero]

theorem toNat_fieldNNN (w : Word) : (fieldNNN w).toNat = w.toNat % 4096 := by
  simp only [fieldNNN, BitVec.extractLsb'_toNat, Nat.shiftRight_zero]

/-- Appending a field on the right of another, as numbers. -/
theorem toNat_append_mul {m n : Nat} (a : BitVec m) (b : BitVec n) :
    (a ++ b).toNat = a.toNat * 2 ^ n + b.toNat := by
  rw [BitVec.toNat_append, ← Nat.shiftLeft_add_eq_or_of_lt b.isLt, Nat.shiftLeft_eq]

theorem toNat_encNNN (f : BitVec 4) (nnn : Addr12) :
    (encNNN f nnn).toNat = f.toNat * 4096 + nnn.toNat := by
  change (f ++ nnn).toNat = _
  exact toNat_append_mul f nnn

theorem toNat_encXNN (f : BitVec 4) (x : Reg) (nn : Byte) :
    (encXNN f x nn).toNat = f.toNat * 4096 + x.val * 256 + nn.toNat := by
  change (f ++ BitVec.ofFin (w := 4) x ++ nn).toNat = _
  rw [toNat_append_mul, toNat_append_mul]
  change (_ * _ + x.val) * _ + _ = _
  omega

theorem toNat_encXYN (f : BitVec 4) (x y : Reg) (n : BitVec 4) :
    (encXYN f x y n).toNat = f.toNat * 4096 + x.val * 256 + y.val * 16 + n.toNat := by
  change (f ++ BitVec.ofFin (w := 4) x ++ BitVec.ofFin (w := 4) y ++ n).toNat = _
  rw [toNat_append_mul, toNat_append_mul, toNat_append_mul]
  change ((_ * _ + x.val) * _ + y.val) * _ + _ = _
  omega

/-- The high byte weighs 256 (20_memory.md R55). -/
theorem toNat_wordOfBytes (hi lo : Byte) : (wordOfBytes hi lo).toNat = hi.toNat * 256 + lo.toNat := by
  change (hi ++ lo).toNat = _
  exact toNat_append_mul hi lo

/-- A word's two bytes give it back. -/
theorem wordOfBytes_extract (w : Word) :
    wordOfBytes (w.extractLsb' 8 8) (w.extractLsb' 0 8) = w := by
  refine BitVec.eq_of_toNat_eq ?_
  have := w.isLt
  rw [toNat_wordOfBytes]
  simp only [BitVec.extractLsb'_toNat, Nat.shiftRight_eq_div_pow]
  omega

/-- Decoding the two bytes of a word is decoding the word. -/
theorem decodeBytes_bytesOfWord (p : Config.Params) (w : Word) (i : Instr)
    (h : decodeWith p w = some i) : decodeBytes p (bytesOfWord w) = .ok (i, []) := by
  simp only [decodeBytes, bytesOfWord, wordOfBytes_extract, h]

end Sys2Proof
end

