-- ==== Sys2Proof/Laws/Memory.lean ====
section
/-! SUPPORT. Memory: a read after a write, every operation keeps the canonical form, and two canonical
memories that read the same are the same list (20_memory.md R60). -/
namespace Sys2Proof.Machine

@[simp] theorem Memory.read_nil (a : Nat) : Memory.read [] a = Memory.unlisted a := rfl

theorem Memory.read_cons (k : Nat) (c : Byte) (m : Memory) (a : Nat) :
    Memory.read ((k, c) :: m) a = if k = a then c else Memory.read m a := rfl

/-- An address no entry has reads as unlisted. -/
theorem Memory.read_of_not_mem (m : Memory) (a : Nat) (h : ∀ c ∈ m, c.1 ≠ a) :
    Memory.read m a = Memory.unlisted a := by
  induction m with
  | nil => rfl
  | cons c m ih =>
    rw [Memory.read_cons, if_neg (h c (by simp)), ih fun d hd => h d (by simp [hd])]

theorem Memory.read_entry_append (a k : Nat) (b : Byte) (m : Memory)
    (h : ∀ c ∈ m, a < c.1) :
    Memory.read (Memory.entry a b ++ m) k = if a = k then b else Memory.read m k := by
  unfold Memory.entry
  split
  · rename_i hb
    split
    · rename_i ha
      subst ha
      rw [hb, List.nil_append, Memory.read_of_not_mem m a fun c hc => Nat.ne_of_gt (h c hc)]
    · rfl
  · rfl

/-- The read after a write gives the byte written; every other address reads as before
(20_memory.md R60). -/
theorem Memory.read_write (m : Memory) (a k : Nat) (b : Byte)
    (h : m.Pairwise (fun c d => c.1 < d.1)) :
    Memory.read (Memory.write m a b) k = if a = k then b else Memory.read m k := by
  induction m with
  | nil => simpa [Memory.write] using Memory.read_entry_append a k b [] (by simp)
  | cons c m ih =>
    obtain ⟨j, c⟩ := c
    rw [List.pairwise_cons] at h
    unfold Memory.write
    split
    · rename_i hj
      rw [Memory.read_cons, Memory.read_cons, ih h.2]
      by_cases hjk : j = k
      · rw [if_pos hjk, if_neg (by omega), if_pos hjk]
      · rw [if_neg hjk, if_neg hjk]
    · split
      · rename_i hj
        subst hj
        rw [Memory.read_entry_append j k b m h.1, Memory.read_cons]
        split <;> rfl
      · rename_i h1 h2
        rw [Memory.read_entry_append]
        rintro d hd
        rcases List.mem_cons.1 hd with rfl | hd
        · simp only; omega
        · have := h.1 d hd
          simp only at this; omega

/-- Where the entries of a written memory come from. -/
theorem Memory.mem_write (m : Memory) (a : Nat) (b : Byte) (c : Host.Cell)
    (h : c ∈ Memory.write m a b) : c ∈ m ∨ (c = (a, b) ∧ b ≠ Memory.unlisted a) := by
  have entry : ∀ {m : Memory}, c ∈ Memory.entry a b ++ m → c ∈ m ∨ (c = (a, b) ∧ b ≠ Memory.unlisted a) := by
    intro m hc
    unfold Memory.entry at hc
    split at hc
    · exact .inl (by simpa using hc)
    · rcases List.mem_append.1 hc with hc | hc
      · exact .inr ⟨by simpa using hc, ‹_›⟩
      · exact .inl hc
  induction m with
  | nil => simpa using entry (m := []) (by simpa [Memory.write] using h)
  | cons d m ih =>
    unfold Memory.write at h
    split at h
    · rcases List.mem_cons.1 h with rfl | h
      · exact .inl (by simp)
      · exact (ih h).imp (fun h => List.mem_cons_of_mem _ h) id
    · split at h
      · exact (entry h).imp (fun h => List.mem_cons_of_mem _ h) id
      · exact entry h

/-- A write inside the address space keeps the canonical form. -/
theorem Memory.wf_write (m : Memory) (a : Nat) (b : Byte) (ha : a < Memory.size) (h : Memory.wf m) :
    Memory.wf (Memory.write m a b) := by
  refine ⟨?_, fun c hc => ?_⟩
  · obtain ⟨h, -⟩ := h
    have entry : ∀ {m : Memory}, m.Pairwise (fun c d => c.1 < d.1) → (∀ c ∈ m, a < c.1) →
        (Memory.entry a b ++ m).Pairwise (fun c d => c.1 < d.1) := by
      intro m hm hlt
      unfold Memory.entry
      split
      · exact hm
      · exact List.pairwise_cons.2 ⟨hlt, hm⟩
    induction m with
    | nil => simpa [Memory.write] using entry (m := []) List.Pairwise.nil (by simp)
    | cons d m ih =>
      obtain ⟨h1, h2⟩ := List.pairwise_cons.1 h
      unfold Memory.write
      split
      · refine List.pairwise_cons.2 ⟨fun c hc => ?_, ih h2⟩
        rcases Memory.mem_write m a b c hc with hc | ⟨rfl, -⟩
        · exact h1 c hc
        · assumption
      · split
        · rename_i hd
          exact entry h2 fun c hc => hd ▸ h1 c hc
        · refine entry h fun c hc => ?_
          rcases List.mem_cons.1 hc with rfl | hc
          · omega
          · have := h1 c hc
            omega
  · rcases Memory.mem_write m a b c hc with hc | ⟨rfl, hb⟩
    · exact h.2 c hc
    · exact ⟨ha, hb⟩

/-- Several writes inside the address space keep the canonical form. -/
theorem Memory.wf_writeBytes (bs : List Byte) (m : Memory) (a : Nat)
    (ha : bs = [] ∨ a + bs.length ≤ Memory.size) (h : Memory.wf m) :
    Memory.wf (Memory.writeBytes m a bs) := by
  induction bs generalizing m a with
  | nil => exact h
  | cons b bs ih =>
    have : a + (bs.length + 1) ≤ Memory.size := by simpa using ha
    exact ih _ _ (.inr (by omega)) (Memory.wf_write m a b (by omega) h)

/-- What each address reads as after several writes. -/
theorem Memory.read_writeBytes (bs : List Byte) (m : Memory) (a k : Nat)
    (ha : a + bs.length ≤ Memory.size) (h : Memory.wf m) :
    Memory.read (Memory.writeBytes m a bs) k =
      if a ≤ k ∧ k < a + bs.length then bs.getD (k - a) 0 else Memory.read m k := by
  induction bs generalizing m a with
  | nil => rw [if_neg (by simp only [List.length_nil]; omega)]; rfl
  | cons b bs ih =>
    rw [List.length_cons] at ha
    rw [Memory.writeBytes, ih _ _ (by omega) (Memory.wf_write m a b (by omega) h),
      Memory.read_write m a k b h.1, List.length_cons]
    by_cases h1 : a = k
    · subst h1
      rw [if_neg (by omega), if_pos rfl, if_pos (by omega), Nat.sub_self]; rfl
    · by_cases h2 : a + 1 ≤ k ∧ k < a + 1 + bs.length
      · rw [if_pos h2, if_pos (by omega), show k - a = k - (a + 1) + 1 by omega]; rfl
      · rw [if_neg h2, if_neg h1, if_neg (by omega)]

@[simp] theorem Memory.length_readBytes (m : Memory) (a n : Nat) :
    (m.readBytes a n).length = n := by
  induction n generalizing a with
  | zero => rfl
  | succ n ih => simp [Memory.readBytes, ih]

/-- Byte j of a read of n bytes. -/
theorem Memory.getD_readBytes (m : Memory) (a n j : Nat) (h : j < n) :
    (m.readBytes a n).getD j 0 = m.read (a + j) := by
  induction n generalizing a j with
  | zero => omega
  | succ n ih =>
    cases j with
    | zero => rfl
    | succ j => rw [Memory.readBytes, List.getD_cons_succ, ih _ _ (by omega), Nat.add_right_comm]; rfl

/-- Two canonical memories that read the same at every address are the same data. -/
theorem Memory.eq_of_read (m m' : Memory) (h : Memory.wf m) (h' : Memory.wf m')
    (hr : ∀ a, Memory.read m a = Memory.read m' a) : m = m' := by
  have listed : ∀ {m : Memory} {c : Host.Cell}, m.Pairwise (fun c d => c.1 < d.1) → c ∈ m →
      Memory.read m c.1 = c.2 := by
    intro m c hm hc
    induction m with
    | nil => simp at hc
    | cons d m ih =>
      obtain ⟨h1, h2⟩ := List.pairwise_cons.1 hm
      rcases List.mem_cons.1 hc with rfl | hc
      · exact if_pos rfl
      · exact (if_neg (Nat.ne_of_lt (h1 c hc))).trans (ih h2 hc)
  have sub : ∀ {m m' : Memory}, Memory.wf m → Memory.wf m' →
      (∀ a, Memory.read m a = Memory.read m' a) → m ⊆ m' := by
    intro m m' h h' hr c hc
    have hread := (hr c.1).symm.trans (listed h.1 hc)
    by_contra hn
    by_cases hk : ∃ d ∈ m', d.1 = c.1
    · obtain ⟨d, hd, hk⟩ := hk
      exact hn (by rwa [show c = d from Prod.ext hk.symm (hread.symm.trans (hk ▸ listed h'.1 hd))])
    · exact (h.2 c hc).2 (hread ▸ Memory.read_of_not_mem m' c.1 fun d hd hdk => hk ⟨d, hd, hdk⟩)
  have irr : ∀ {m : Memory}, m.Pairwise (fun c d => c.1 < d.1) → m.Nodup := by
    intro m hm
    refine List.Pairwise.imp (R := fun c d : Host.Cell => c.1 < d.1) ?_ hm
    rintro c d hlt rfl
    exact Nat.lt_irrefl _ hlt
  refine List.Perm.eq_of_pairwise (le := fun c d => c.1 < d.1) ?_ h.1 h'.1
    ((List.perm_ext_iff_of_nodup (irr h.1) (irr h'.1)).2 fun c =>
      ⟨fun hc => sub h h' hr hc, fun hc => sub h' h (fun a => (hr a).symm) hc⟩)
  intro c d _ _ h1 h2
  exact absurd (Nat.lt_trans h1 h2) (Nat.lt_irrefl _)

end Sys2Proof.Machine
end

