-- ==== Sys2Proof/Laws/Ops.lean ====
section
/-! SUPPORT. What each shared operation does, said once: block loads and stores, timers, the framebuffer
and the drawing loop. -/
namespace Sys2Proof.Machine

/-! ### Registers and memory -/

/-- A block load fills V0..V(n-1) and leaves the rest (44_index_memory.md R200). -/
theorem getElem_loadRegs (m : Memory) (a n : Nat) (v : Vector Byte 16) (j : Nat) (hj : j < 16) :
    (loadRegs m a n v)[j] = if j < n then m.read (a + j) else v[j] := by
  induction n with
  | zero => simp [loadRegs]
  | succ n ih =>
    rw [loadRegs, Vector.getElem_setIfInBounds, ih]
    by_cases h : n = j
    · subst h; simp
    · simp only [if_neg h, show j < n + 1 ↔ j < n by omega]

@[simp] theorem State.length_firstRegs (s : State) (x : Reg) : (s.firstRegs x).length = x.val + 1 := by
  have := x.isLt
  simp only [State.firstRegs, List.length_take, Vector.length_toList]
  omega

/-- Byte j of the block that FX55 stores is Vj (44_index_memory.md R198). -/
theorem State.getD_firstRegs (s : State) (x : Reg) (j : Nat) (h : j ≤ x.val) :
    (s.firstRegs x).getD j 0 = s.v[j]'(by omega) := by
  have := x.isLt
  rw [State.firstRegs, List.getD_eq_getElem?_getD, List.getElem?_take, if_pos (by omega)]
  simp [show j < 16 by omega]

/-- The range check, said in numbers (20_memory.md R58). -/
theorem State.reaches_iff (s : State) (n : Nat) :
    s.reaches n = true ↔ n = 0 ∨ s.i.toNat + n ≤ Memory.size := by
  simp only [State.reaches, Bool.or_eq_true, beq_iff_eq, decide_eq_true_iff]
  simp only [State.base, Memory.size]
  omega

/-- A write to one register leaves the others (10_state.md R20). -/
theorem State.getElem_setV_ne (s : State) (x r : Reg) (b : Byte) (h : r ≠ x) :
    (s.setV x b).v[r] = s.v[r] := by
  change (s.v.set x.val b)[r.val] = s.v[r.val]
  rw [Vector.getElem_set, if_neg fun e => h (Fin.ext e.symm)]

/-- A result and a flag leave every register but the destination and VF (10_state.md R22, R23). -/
theorem State.getElem_setVFlag_ne (s : State) (x r : Reg) (a f : Byte) (hx : r ≠ x) (hf : r ≠ 15) :
    (s.setVFlag x a f).v[r] = s.v[r] :=
  (State.getElem_setV_ne _ 15 r f hf).trans (State.getElem_setV_ne s x r a hx)

/-- A skip instruction moves pc by 2 or by 4 (40_engine.md R104). -/
theorem State.skipIf_pc_cases (s : State) (c : Bool) :
    (s.skipIf c).pc = s.pc + 2 ∨ (s.skipIf c).pc = s.pc + 4 := by
  cases c
  · exact .inl rfl
  · exact .inr rfl

/-! ### Timers (40_engine.md R108) -/

/-- A tick counts down and stops at 0. -/
theorem toNat_tickTimer (t : Byte) : (tickTimer t).toNat = t.toNat - 1 := by
  unfold tickTimer
  split <;> bv_omega

/-! ### Stack (10_state.md R32) -/

/-- What a push leaves is what the next pop reads (41_flow.md R125). -/
theorem State.top_push (s : State) (a : Word) (h : s.sp.val < 16) :
    (s.push a h).top (Nat.succ_pos _) = a := by
  simp [State.top, State.push]

/-- A pop undoes the stack pointer's move of a push. -/
theorem State.sp_pop_push (s : State) (a : Word) (h : s.sp.val < 16) :
    (s.push a h).pop.sp = s.sp := by
  simp [State.pop, State.push]

/-! ### Framebuffer (10_state.md R38) -/

/-- A toggle changes its own cell and no other. -/
theorem Framebuffer.cell_toggle (fb : Framebuffer) (x y a b : Nat) (ha : a < 64) (hb : b < 32) :
    (fb.toggle x y).cell a b = ((fb.cell a b) ^^ decide ((a, b) = (x, y))) := by
  simp only [Framebuffer.cell, Framebuffer.row, Framebuffer.toggle, Prod.mk.injEq]
  rw [Vector.getElem?_eq_getElem hb, Vector.getElem?_eq_getElem hb, Vector.getElem_setIfInBounds]
  by_cases h : y = b
  · subst h
    simp only [if_true, Vector.getElem?_eq_getElem hb, Option.getD_some, BitVec.getLsbD_xor,
      BitVec.getLsbD_twoPow, and_true]
    by_cases hx : x = a
    · subst hx; simp [ha]
    · simp [hx, Ne.symm hx]
  · simp [h, Ne.symm h]

theorem Framebuffer.cell_clear (a b : Nat) : Framebuffer.clear.cell a b = false := by
  unfold Framebuffer.cell Framebuffer.row Framebuffer.clear
  by_cases hb : b < 32
  · simp [hb]
  · simp [Vector.getElem?_eq_none (Nat.le_of_not_lt hb)]

/-- Two framebuffers with the same cells are the same. -/
theorem Framebuffer.ext_cell (f g : Framebuffer)
    (h : ∀ a b, a < 64 → b < 32 → f.cell a b = g.cell a b) : f = g := by
  refine Vector.ext fun b hb => BitVec.eq_of_getLsbD_eq fun a ha => ?_
  have := h a b ha hb
  simpa [Framebuffer.cell, Framebuffer.row, Vector.getElem?_eq_getElem hb] using this

/-! ### The drawing loop (45_display.md R212) -/

theorem mem_rowCells (x0 y : Nat) (b : Byte) (p : Nat × Nat) :
    p ∈ rowCells x0 y b ↔
      p.2 = y ∧ x0 ≤ p.1 ∧ p.1 < x0 + 8 ∧ b.getLsbD (7 - (p.1 - x0)) = true := by
  obtain ⟨px, py⟩ := p
  simp only [rowCells, List.mem_map, List.mem_filter, List.mem_range, Prod.mk.injEq]
  constructor
  · rintro ⟨c, ⟨hc, hb⟩, rfl, rfl⟩
    exact ⟨rfl, by omega, by omega, by rwa [Nat.add_sub_cancel_left]⟩
  · rintro ⟨rfl, h1, h2, hb⟩
    exact ⟨px - x0, ⟨by omega, hb⟩, by omega, rfl⟩

/-- The cells a sprite addresses: column c of row r is bit 7 - c of byte r (45_display.md R211). -/
theorem mem_spriteCells (bs : List Byte) (x0 y0 : Nat) (p : Nat × Nat) :
    p ∈ spriteCells x0 y0 bs ↔
      y0 ≤ p.2 ∧ p.2 < y0 + bs.length ∧ x0 ≤ p.1 ∧ p.1 < x0 + 8 ∧
        (bs.getD (p.2 - y0) 0).getLsbD (7 - (p.1 - x0)) = true := by
  induction bs generalizing y0 with
  | nil => simp only [spriteCells, List.not_mem_nil, List.length_nil, false_iff]; omega
  | cons b bs ih =>
    rw [spriteCells, List.mem_append, mem_rowCells, ih, List.length_cons]
    by_cases h : p.2 = y0
    · rw [h, Nat.sub_self, List.getD_cons_zero]
      constructor
      · rintro (⟨-, h⟩ | h)
        · exact ⟨by omega, by omega, h⟩
        · omega
      · rintro ⟨-, -, h⟩
        exact .inl ⟨rfl, h⟩
    · constructor
      · rintro (h' | ⟨h1, h2, h3⟩)
        · exact absurd h'.1 h
        · refine ⟨by omega, by omega, ?_⟩
          rwa [show p.2 - y0 = p.2 - (y0 + 1) + 1 by omega, List.getD_cons_succ]
      · rintro ⟨h1, h2, h3⟩
        refine .inr ⟨by omega, by omega, ?_⟩
        rwa [show p.2 - y0 = p.2 - (y0 + 1) + 1 by omega, List.getD_cons_succ] at h3

/-- "So no cell is toggled twice by one DXYN" (45_display.md R212). -/
theorem nodup_spriteCells (bs : List Byte) (x0 y0 : Nat) : (spriteCells x0 y0 bs).Nodup := by
  induction bs generalizing y0 with
  | nil => exact List.nodup_nil
  | cons b bs ih =>
    refine List.nodup_append.2 ⟨?_, ih _, ?_⟩
    · refine (List.nodup_range.filter _).map fun c d h => ?_
      simpa using h
    · rintro p hp q hq rfl
      have h1 := (mem_rowCells _ _ _ _).1 hp
      have h2 := (mem_spriteCells _ _ _ _).1 hq
      omega

/-- The drawing loop toggles each of its cells, and hits where one of them was 1. -/
theorem foldl_drawCell (cells : List (Nat × Nat)) (fb : Framebuffer) (hit : Bool)
    (hn : cells.Nodup) (hg : cells.all onGrid = true) :
    (∀ a b, a < 64 → b < 32 →
      (cells.foldl drawCell (fb, hit)).1.cell a b = (fb.cell a b ^^ decide ((a, b) ∈ cells))) ∧
    (cells.foldl drawCell (fb, hit)).2 = (hit || cells.any (fun p => fb.cell p.1 p.2)) := by
  induction cells generalizing fb hit with
  | nil => simp
  | cons p cells ih =>
    obtain ⟨hp, hn⟩ := List.nodup_cons.1 hn
    rw [List.all_cons, Bool.and_eq_true] at hg
    obtain ⟨ih1, ih2⟩ := ih (fb.toggle p.1 p.2) (hit || fb.cell p.1 p.2) hn hg.2
    refine ⟨fun a b ha hb => ?_, ?_⟩
    · rw [List.foldl_cons, drawCell, ih1 a b ha hb, Framebuffer.cell_toggle _ _ _ _ _ ha hb]
      by_cases h : (a, b) = p
      · subst h; simp [hp]
      · simp [h]
    · rw [List.foldl_cons, drawCell, ih2, List.any_cons, Bool.or_assoc]
      congr 2
      refine Bool.eq_iff_iff.2 ?_
      simp only [List.any_eq_true]
      refine exists_congr fun q => and_congr_right fun hq => ?_
      have hgrid := List.all_eq_true.1 hg.2 q hq
      simp only [onGrid, Bool.and_eq_true, decide_eq_true_eq] at hgrid
      rw [Framebuffer.cell_toggle _ _ _ _ _ (by omega) (by omega)]
      have : (q.1, q.2) ≠ (p.1, p.2) := fun h => hp ((show q = p from h) ▸ hq)
      simp [this]

/-- `drawSprite` on the cells of a sprite, cell by cell (45_display.md R212). -/
theorem cell_drawSprite (fb : Framebuffer) (cells : List (Nat × Nat)) (hn : cells.Nodup)
    (hg : cells.all onGrid = true) (a b : Nat) (ha : a < 64) (hb : b < 32) :
    (drawSprite fb cells).1.cell a b = (fb.cell a b ^^ decide ((a, b) ∈ cells)) :=
  (foldl_drawCell cells fb false hn hg).1 a b ha hb

/-- The collision: some cell of the sprite was 1 (45_display.md R212). -/
theorem hit_drawSprite (fb : Framebuffer) (cells : List (Nat × Nat)) (hn : cells.Nodup)
    (hg : cells.all onGrid = true) :
    (drawSprite fb cells).2 = cells.any (fun p => fb.cell p.1 p.2) := by
  rw [drawSprite, (foldl_drawCell cells fb false hn hg).2, Bool.false_or]

/-- The cells DXYN toggles: those under the set bits of its sprite (45_display.md R211, R212). -/
theorem mem_drawCells (s : State) (x y : Reg) (n : Rows) (a b : Nat) :
    (a, b) ∈ s.drawCells x y n ↔
      ∃ r < n.toNat, ∃ c < 8, (s.mem.read (s.base + r)).getLsbD (7 - c) = true ∧
        a = s.v[x].toNat + c ∧ b = s.v[y].toNat + r := by
  rw [State.drawCells, mem_spriteCells]
  simp only [State.sprite, Memory.length_readBytes, State.getV]
  constructor
  · rintro ⟨h1, h2, h3, h4, h5⟩
    rw [Memory.getD_readBytes _ _ _ _ (by omega)] at h5
    exact ⟨b - s.v[y].toNat, by omega, a - s.v[x].toNat, by omega, h5, by omega, by omega⟩
  · rintro ⟨r, hr, c, hc, hb, rfl, rfl⟩
    refine ⟨by omega, by omega, by omega, by omega, ?_⟩
    rw [Memory.getD_readBytes _ _ _ _ (by omega), Nat.add_sub_cancel_left, Nat.add_sub_cancel_left]
    exact hb

/-- The draw check of DXYN: every set bit of its sprite is on the grid (45_display.md R212). -/
theorem drawCells_onGrid (s : State) (x y : Reg) (n : Rows) :
    (s.drawCells x y n).all onGrid = true ↔
      ∀ r < n.toNat, ∀ c < 8, (s.mem.read (s.base + r)).getLsbD (7 - c) = true →
        s.v[x].toNat + c ≤ 63 ∧ s.v[y].toNat + r ≤ 31 := by
  rw [List.all_eq_true]
  constructor
  · intro h r hr c hc hb
    simpa [onGrid] using h _ ((mem_drawCells s x y n _ _).2 ⟨r, hr, c, hc, hb, rfl, rfl⟩)
  · rintro h ⟨a, b⟩ hp
    obtain ⟨r, hr, c, hc, hb, rfl, rfl⟩ := (mem_drawCells s x y n _ _).1 hp
    simpa [onGrid] using h r hr c hc hb

/-! ### Keys -/

/-- A pressed key is seen (46_timers_keys.md R236). -/
theorem anyKey_of_pressed (s : State) (k : Nat) (h : s.keys.getLsbD k = true) : s.anyKey = true := by
  simp only [State.anyKey, bne_iff_ne, ne_eq]
  intro h0
  simp [h0] at h

/-- The lowest pressed key is the one with no pressed key below it (46_timers_keys.md R236). -/
theorem lowestKey_eq (s : State) (k : Nat) (hk : k < 16) (h : s.keys.getLsbD k = true)
    (hl : ∀ j < k, s.keys.getLsbD j = false) : s.lowestKey = BitVec.ofNat 8 k := by
  have : (List.range 16).find? s.keyDown = some k := by
    rw [List.find?_range_eq_some]
    simp only [State.keyDown, h, List.mem_range, hk, Bool.not_eq_true', true_and]
    exact hl
  simp only [State.lowestKey, this, Option.getD_some]

end Sys2Proof.Machine
end

