-- ==== Sys2Proof/Laws/PerInstr.lean ====
section
/-! SUPPORT. One law per instruction, as syntax: the word the encoder gives an instruction matches that
instruction's row of spec/opcode_table.json. -/
namespace Sys2Proof.Laws.EncodeMatchesTable

/-- The mask and the match of an instruction's row of spec/opcode_table.json. -/
def row : Instr → Word × Word
  | .sys _ => (0xF000, 0x0000)
  | .cls => (0xFFFF, 0x00E0)
  | .ret => (0xFFFF, 0x00EE)
  | .jp _ => (0xF000, 0x1000)
  | .call _ => (0xF000, 0x2000)
  | .seImm _ _ => (0xF000, 0x3000)
  | .sneImm _ _ => (0xF000, 0x4000)
  | .seReg _ _ => (0xF00F, 0x5000)
  | .ldImm _ _ => (0xF000, 0x6000)
  | .addImm _ _ => (0xF000, 0x7000)
  | .ldReg _ _ => (0xF00F, 0x8000)
  | .orReg _ _ => (0xF00F, 0x8001)
  | .andReg _ _ => (0xF00F, 0x8002)
  | .xorReg _ _ => (0xF00F, 0x8003)
  | .addReg _ _ => (0xF00F, 0x8004)
  | .subReg _ _ => (0xF00F, 0x8005)
  | .shr _ _ => (0xF00F, 0x8006)
  | .subnReg _ _ => (0xF00F, 0x8007)
  | .shl _ _ => (0xF00F, 0x800E)
  | .sneReg _ _ => (0xF00F, 0x9000)
  | .ldI _ => (0xF000, 0xA000)
  | .jpV0 _ => (0xF000, 0xB000)
  | .rnd _ _ => (0xF000, 0xC000)
  | .drw _ _ _ => (0xF000, 0xD000)
  | .skp _ => (0xF0FF, 0xE09E)
  | .sknp _ => (0xF0FF, 0xE0A1)
  | .ldXDt _ => (0xF0FF, 0xF007)
  | .ldXK _ => (0xF0FF, 0xF00A)
  | .ldDtX _ => (0xF0FF, 0xF015)
  | .ldStX _ => (0xF0FF, 0xF018)
  | .addIX _ => (0xF0FF, 0xF01E)
  | .ldFX _ => (0xF0FF, 0xF029)
  | .ldBX _ => (0xF0FF, 0xF033)
  | .ldMemX _ => (0xF0FF, 0xF055)
  | .ldXMem _ => (0xF0FF, 0xF065)

/-- The encoded word, under its row's mask, is its row's match. -/
def Statement (i : Instr) : Prop := encode i &&& (row i).1 = (row i).2

theorem and_nibble (f : BitVec 4) : f &&& 0xF#4 = f := BitVec.and_allOnes
theorem and_byte (b : Byte) : b &&& 0xFF#8 = b := BitVec.and_allOnes

theorem nnn_mask (f : BitVec 4) (nnn : Addr12) : encNNN f nnn &&& 0xF000 = f ++ 0#12 := by
  rw [encNNN, show (0xF000 : Word) = 0xF#4 ++ 0#12 from rfl, BitVec.and_append]
  rw [and_nibble, BitVec.and_zero]

theorem xnn_mask (f : BitVec 4) (x : Reg) (nn : Byte) : encXNN f x nn &&& 0xF000 = f ++ 0#4 ++ 0#8 := by
  rw [encXNN, show (0xF000 : Word) = 0xF#4 ++ 0#4 ++ 0#8 from rfl, BitVec.and_append, BitVec.and_append]
  rw [and_nibble, BitVec.and_zero, BitVec.and_zero]

theorem x_mask (f : BitVec 4) (x : Reg) (nn : Byte) :
    encXNN f x nn &&& 0xF0FF = f ++ 0#4 ++ nn := by
  rw [encXNN, show (0xF0FF : Word) = 0xF#4 ++ 0#4 ++ 0xFF#8 from rfl, BitVec.and_append, BitVec.and_append]
  rw [and_nibble, BitVec.and_zero, and_byte]

theorem xy_mask (f : BitVec 4) (x y : Reg) (n : BitVec 4) :
    encXYN f x y n &&& 0xF00F = f ++ 0#4 ++ 0#4 ++ n := by
  rw [encXYN, show (0xF00F : Word) = 0xF#4 ++ 0#4 ++ 0#4 ++ 0xF#4 from rfl, BitVec.and_append,
    BitVec.and_append, BitVec.and_append]
  rw [and_nibble, and_nibble, BitVec.and_zero, BitVec.and_zero]

theorem xyn_mask (f : BitVec 4) (x y : Reg) (n : BitVec 4) :
    encXYN f x y n &&& 0xF000 = f ++ 0#4 ++ 0#4 ++ 0#4 := by
  rw [encXYN, show (0xF000 : Word) = 0xF#4 ++ 0#4 ++ 0#4 ++ 0#4 from rfl, BitVec.and_append,
    BitVec.and_append, BitVec.and_append]
  rw [and_nibble, BitVec.and_zero, BitVec.and_zero, BitVec.and_zero]

theorem sys (nnn : Addr12) : Statement (.sys nnn) := nnn_mask _ _
theorem cls : Statement (.cls) := rfl
theorem ret : Statement (.ret) := rfl
theorem jp (nnn : Addr12) : Statement (.jp nnn) := nnn_mask _ _
theorem call (nnn : Addr12) : Statement (.call nnn) := nnn_mask _ _
theorem seImm (x : Reg) (nn : Byte) : Statement (.seImm x nn) := xnn_mask _ _ _
theorem sneImm (x : Reg) (nn : Byte) : Statement (.sneImm x nn) := xnn_mask _ _ _
theorem seReg (x : Reg) (y : Reg) : Statement (.seReg x y) := xy_mask _ _ _ _
theorem ldImm (x : Reg) (nn : Byte) : Statement (.ldImm x nn) := xnn_mask _ _ _
theorem addImm (x : Reg) (nn : Byte) : Statement (.addImm x nn) := xnn_mask _ _ _
theorem ldReg (x : Reg) (y : Reg) : Statement (.ldReg x y) := xy_mask _ _ _ _
theorem orReg (x : Reg) (y : Reg) : Statement (.orReg x y) := xy_mask _ _ _ _
theorem andReg (x : Reg) (y : Reg) : Statement (.andReg x y) := xy_mask _ _ _ _
theorem xorReg (x : Reg) (y : Reg) : Statement (.xorReg x y) := xy_mask _ _ _ _
theorem addReg (x : Reg) (y : Reg) : Statement (.addReg x y) := xy_mask _ _ _ _
theorem subReg (x : Reg) (y : Reg) : Statement (.subReg x y) := xy_mask _ _ _ _
theorem shr (x : Reg) (y : Reg) : Statement (.shr x y) := xy_mask _ _ _ _
theorem subnReg (x : Reg) (y : Reg) : Statement (.subnReg x y) := xy_mask _ _ _ _
theorem shl (x : Reg) (y : Reg) : Statement (.shl x y) := xy_mask _ _ _ _
theorem sneReg (x : Reg) (y : Reg) : Statement (.sneReg x y) := xy_mask _ _ _ _
theorem ldI (nnn : Addr12) : Statement (.ldI nnn) := nnn_mask _ _
theorem jpV0 (nnn : Addr12) : Statement (.jpV0 nnn) := nnn_mask _ _
theorem rnd (x : Reg) (nn : Byte) : Statement (.rnd x nn) := xnn_mask _ _ _
theorem drw (x : Reg) (y : Reg) (n : Rows) : Statement (.drw x y n) := xyn_mask _ _ _ _
theorem skp (x : Reg) : Statement (.skp x) := x_mask _ _ _
theorem sknp (x : Reg) : Statement (.sknp x) := x_mask _ _ _
theorem ldXDt (x : Reg) : Statement (.ldXDt x) := x_mask _ _ _
theorem ldXK (x : Reg) : Statement (.ldXK x) := x_mask _ _ _
theorem ldDtX (x : Reg) : Statement (.ldDtX x) := x_mask _ _ _
theorem ldStX (x : Reg) : Statement (.ldStX x) := x_mask _ _ _
theorem addIX (x : Reg) : Statement (.addIX x) := x_mask _ _ _
theorem ldFX (x : Reg) : Statement (.ldFX x) := x_mask _ _ _
theorem ldBX (x : Reg) : Statement (.ldBX x) := x_mask _ _ _
theorem ldMemX (x : Reg) : Statement (.ldMemX x) := x_mask _ _ _
theorem ldXMem (x : Reg) : Statement (.ldXMem x) := x_mask _ _ _

end Sys2Proof.Laws.EncodeMatchesTable
end

