-- ==== Sys2Proof/Laws/State.lean ====
section
/-! SUPPORT. What each named update of the state does to each field, so that no later proof unfolds a
record update; and the updates that are made of others. -/
namespace Sys2Proof.Machine

variable (s : State)

/-! `setV` -/
@[simp] theorem State.setV_mem (x : Reg) (b : Byte) : (s.setV x b).mem = s.mem := rfl
@[simp] theorem State.setV_v (x : Reg) (b : Byte) : (s.setV x b).v = s.v.set x b := rfl
@[simp] theorem State.setV_i (x : Reg) (b : Byte) : (s.setV x b).i = s.i := rfl
@[simp] theorem State.setV_pc (x : Reg) (b : Byte) : (s.setV x b).pc = s.pc := rfl
@[simp] theorem State.setV_stack (x : Reg) (b : Byte) : (s.setV x b).stack = s.stack := rfl
@[simp] theorem State.setV_sp (x : Reg) (b : Byte) : (s.setV x b).sp = s.sp := rfl
@[simp] theorem State.setV_dt (x : Reg) (b : Byte) : (s.setV x b).dt = s.dt := rfl
@[simp] theorem State.setV_st (x : Reg) (b : Byte) : (s.setV x b).st = s.st := rfl
@[simp] theorem State.setV_keys (x : Reg) (b : Byte) : (s.setV x b).keys = s.keys := rfl
@[simp] theorem State.setV_fb (x : Reg) (b : Byte) : (s.setV x b).fb = s.fb := rfl
@[simp] theorem State.setV_dirty (x : Reg) (b : Byte) : (s.setV x b).dirty = s.dirty := rfl
@[simp] theorem State.setV_wait (x : Reg) (b : Byte) : (s.setV x b).wait = s.wait := rfl
@[simp] theorem State.setV_fault (x : Reg) (b : Byte) : (s.setV x b).fault = s.fault := rfl
@[simp] theorem State.setV_rnd (x : Reg) (b : Byte) : (s.setV x b).rnd = s.rnd := rfl
@[simp] theorem State.setV_inputs (x : Reg) (b : Byte) : (s.setV x b).inputs = s.inputs := rfl
@[simp] theorem State.setV_inputTime (x : Reg) (b : Byte) : (s.setV x b).inputTime = s.inputTime := rfl

/-! `setRegs` -/
@[simp] theorem State.setRegs_mem (w : Vector Byte 16) : (s.setRegs w).mem = s.mem := rfl
@[simp] theorem State.setRegs_v (w : Vector Byte 16) : (s.setRegs w).v = w := rfl
@[simp] theorem State.setRegs_i (w : Vector Byte 16) : (s.setRegs w).i = s.i := rfl
@[simp] theorem State.setRegs_pc (w : Vector Byte 16) : (s.setRegs w).pc = s.pc := rfl
@[simp] theorem State.setRegs_stack (w : Vector Byte 16) : (s.setRegs w).stack = s.stack := rfl
@[simp] theorem State.setRegs_sp (w : Vector Byte 16) : (s.setRegs w).sp = s.sp := rfl
@[simp] theorem State.setRegs_dt (w : Vector Byte 16) : (s.setRegs w).dt = s.dt := rfl
@[simp] theorem State.setRegs_st (w : Vector Byte 16) : (s.setRegs w).st = s.st := rfl
@[simp] theorem State.setRegs_keys (w : Vector Byte 16) : (s.setRegs w).keys = s.keys := rfl
@[simp] theorem State.setRegs_fb (w : Vector Byte 16) : (s.setRegs w).fb = s.fb := rfl
@[simp] theorem State.setRegs_dirty (w : Vector Byte 16) : (s.setRegs w).dirty = s.dirty := rfl
@[simp] theorem State.setRegs_wait (w : Vector Byte 16) : (s.setRegs w).wait = s.wait := rfl
@[simp] theorem State.setRegs_fault (w : Vector Byte 16) : (s.setRegs w).fault = s.fault := rfl
@[simp] theorem State.setRegs_rnd (w : Vector Byte 16) : (s.setRegs w).rnd = s.rnd := rfl
@[simp] theorem State.setRegs_inputs (w : Vector Byte 16) : (s.setRegs w).inputs = s.inputs := rfl
@[simp] theorem State.setRegs_inputTime (w : Vector Byte 16) : (s.setRegs w).inputTime = s.inputTime := rfl

/-! `setI` -/
@[simp] theorem State.setI_mem (a : Word) : (s.setI a).mem = s.mem := rfl
@[simp] theorem State.setI_v (a : Word) : (s.setI a).v = s.v := rfl
@[simp] theorem State.setI_i (a : Word) : (s.setI a).i = a := rfl
@[simp] theorem State.setI_pc (a : Word) : (s.setI a).pc = s.pc := rfl
@[simp] theorem State.setI_stack (a : Word) : (s.setI a).stack = s.stack := rfl
@[simp] theorem State.setI_sp (a : Word) : (s.setI a).sp = s.sp := rfl
@[simp] theorem State.setI_dt (a : Word) : (s.setI a).dt = s.dt := rfl
@[simp] theorem State.setI_st (a : Word) : (s.setI a).st = s.st := rfl
@[simp] theorem State.setI_keys (a : Word) : (s.setI a).keys = s.keys := rfl
@[simp] theorem State.setI_fb (a : Word) : (s.setI a).fb = s.fb := rfl
@[simp] theorem State.setI_dirty (a : Word) : (s.setI a).dirty = s.dirty := rfl
@[simp] theorem State.setI_wait (a : Word) : (s.setI a).wait = s.wait := rfl
@[simp] theorem State.setI_fault (a : Word) : (s.setI a).fault = s.fault := rfl
@[simp] theorem State.setI_rnd (a : Word) : (s.setI a).rnd = s.rnd := rfl
@[simp] theorem State.setI_inputs (a : Word) : (s.setI a).inputs = s.inputs := rfl
@[simp] theorem State.setI_inputTime (a : Word) : (s.setI a).inputTime = s.inputTime := rfl

/-! `setPc` -/
@[simp] theorem State.setPc_mem (a : Word) : (s.setPc a).mem = s.mem := rfl
@[simp] theorem State.setPc_v (a : Word) : (s.setPc a).v = s.v := rfl
@[simp] theorem State.setPc_i (a : Word) : (s.setPc a).i = s.i := rfl
@[simp] theorem State.setPc_pc (a : Word) : (s.setPc a).pc = a := rfl
@[simp] theorem State.setPc_stack (a : Word) : (s.setPc a).stack = s.stack := rfl
@[simp] theorem State.setPc_sp (a : Word) : (s.setPc a).sp = s.sp := rfl
@[simp] theorem State.setPc_dt (a : Word) : (s.setPc a).dt = s.dt := rfl
@[simp] theorem State.setPc_st (a : Word) : (s.setPc a).st = s.st := rfl
@[simp] theorem State.setPc_keys (a : Word) : (s.setPc a).keys = s.keys := rfl
@[simp] theorem State.setPc_fb (a : Word) : (s.setPc a).fb = s.fb := rfl
@[simp] theorem State.setPc_dirty (a : Word) : (s.setPc a).dirty = s.dirty := rfl
@[simp] theorem State.setPc_wait (a : Word) : (s.setPc a).wait = s.wait := rfl
@[simp] theorem State.setPc_fault (a : Word) : (s.setPc a).fault = s.fault := rfl
@[simp] theorem State.setPc_rnd (a : Word) : (s.setPc a).rnd = s.rnd := rfl
@[simp] theorem State.setPc_inputs (a : Word) : (s.setPc a).inputs = s.inputs := rfl
@[simp] theorem State.setPc_inputTime (a : Word) : (s.setPc a).inputTime = s.inputTime := rfl

/-! `setDt` -/
@[simp] theorem State.setDt_mem (b : Byte) : (s.setDt b).mem = s.mem := rfl
@[simp] theorem State.setDt_v (b : Byte) : (s.setDt b).v = s.v := rfl
@[simp] theorem State.setDt_i (b : Byte) : (s.setDt b).i = s.i := rfl
@[simp] theorem State.setDt_pc (b : Byte) : (s.setDt b).pc = s.pc := rfl
@[simp] theorem State.setDt_stack (b : Byte) : (s.setDt b).stack = s.stack := rfl
@[simp] theorem State.setDt_sp (b : Byte) : (s.setDt b).sp = s.sp := rfl
@[simp] theorem State.setDt_dt (b : Byte) : (s.setDt b).dt = b := rfl
@[simp] theorem State.setDt_st (b : Byte) : (s.setDt b).st = s.st := rfl
@[simp] theorem State.setDt_keys (b : Byte) : (s.setDt b).keys = s.keys := rfl
@[simp] theorem State.setDt_fb (b : Byte) : (s.setDt b).fb = s.fb := rfl
@[simp] theorem State.setDt_dirty (b : Byte) : (s.setDt b).dirty = s.dirty := rfl
@[simp] theorem State.setDt_wait (b : Byte) : (s.setDt b).wait = s.wait := rfl
@[simp] theorem State.setDt_fault (b : Byte) : (s.setDt b).fault = s.fault := rfl
@[simp] theorem State.setDt_rnd (b : Byte) : (s.setDt b).rnd = s.rnd := rfl
@[simp] theorem State.setDt_inputs (b : Byte) : (s.setDt b).inputs = s.inputs := rfl
@[simp] theorem State.setDt_inputTime (b : Byte) : (s.setDt b).inputTime = s.inputTime := rfl

/-! `setSt` -/
@[simp] theorem State.setSt_mem (b : Byte) : (s.setSt b).mem = s.mem := rfl
@[simp] theorem State.setSt_v (b : Byte) : (s.setSt b).v = s.v := rfl
@[simp] theorem State.setSt_i (b : Byte) : (s.setSt b).i = s.i := rfl
@[simp] theorem State.setSt_pc (b : Byte) : (s.setSt b).pc = s.pc := rfl
@[simp] theorem State.setSt_stack (b : Byte) : (s.setSt b).stack = s.stack := rfl
@[simp] theorem State.setSt_sp (b : Byte) : (s.setSt b).sp = s.sp := rfl
@[simp] theorem State.setSt_dt (b : Byte) : (s.setSt b).dt = s.dt := rfl
@[simp] theorem State.setSt_st (b : Byte) : (s.setSt b).st = b := rfl
@[simp] theorem State.setSt_keys (b : Byte) : (s.setSt b).keys = s.keys := rfl
@[simp] theorem State.setSt_fb (b : Byte) : (s.setSt b).fb = s.fb := rfl
@[simp] theorem State.setSt_dirty (b : Byte) : (s.setSt b).dirty = s.dirty := rfl
@[simp] theorem State.setSt_wait (b : Byte) : (s.setSt b).wait = s.wait := rfl
@[simp] theorem State.setSt_fault (b : Byte) : (s.setSt b).fault = s.fault := rfl
@[simp] theorem State.setSt_rnd (b : Byte) : (s.setSt b).rnd = s.rnd := rfl
@[simp] theorem State.setSt_inputs (b : Byte) : (s.setSt b).inputs = s.inputs := rfl
@[simp] theorem State.setSt_inputTime (b : Byte) : (s.setSt b).inputTime = s.inputTime := rfl

/-! `setMem` -/
@[simp] theorem State.setMem_mem (m : Memory) : (s.setMem m).mem = m := rfl
@[simp] theorem State.setMem_v (m : Memory) : (s.setMem m).v = s.v := rfl
@[simp] theorem State.setMem_i (m : Memory) : (s.setMem m).i = s.i := rfl
@[simp] theorem State.setMem_pc (m : Memory) : (s.setMem m).pc = s.pc := rfl
@[simp] theorem State.setMem_stack (m : Memory) : (s.setMem m).stack = s.stack := rfl
@[simp] theorem State.setMem_sp (m : Memory) : (s.setMem m).sp = s.sp := rfl
@[simp] theorem State.setMem_dt (m : Memory) : (s.setMem m).dt = s.dt := rfl
@[simp] theorem State.setMem_st (m : Memory) : (s.setMem m).st = s.st := rfl
@[simp] theorem State.setMem_keys (m : Memory) : (s.setMem m).keys = s.keys := rfl
@[simp] theorem State.setMem_fb (m : Memory) : (s.setMem m).fb = s.fb := rfl
@[simp] theorem State.setMem_dirty (m : Memory) : (s.setMem m).dirty = s.dirty := rfl
@[simp] theorem State.setMem_wait (m : Memory) : (s.setMem m).wait = s.wait := rfl
@[simp] theorem State.setMem_fault (m : Memory) : (s.setMem m).fault = s.fault := rfl
@[simp] theorem State.setMem_rnd (m : Memory) : (s.setMem m).rnd = s.rnd := rfl
@[simp] theorem State.setMem_inputs (m : Memory) : (s.setMem m).inputs = s.inputs := rfl
@[simp] theorem State.setMem_inputTime (m : Memory) : (s.setMem m).inputTime = s.inputTime := rfl

/-! `raise` -/
@[simp] theorem State.raise_mem (c : FaultCode) : (s.raise c).mem = s.mem := rfl
@[simp] theorem State.raise_v (c : FaultCode) : (s.raise c).v = s.v := rfl
@[simp] theorem State.raise_i (c : FaultCode) : (s.raise c).i = s.i := rfl
@[simp] theorem State.raise_pc (c : FaultCode) : (s.raise c).pc = s.pc := rfl
@[simp] theorem State.raise_stack (c : FaultCode) : (s.raise c).stack = s.stack := rfl
@[simp] theorem State.raise_sp (c : FaultCode) : (s.raise c).sp = s.sp := rfl
@[simp] theorem State.raise_dt (c : FaultCode) : (s.raise c).dt = s.dt := rfl
@[simp] theorem State.raise_st (c : FaultCode) : (s.raise c).st = s.st := rfl
@[simp] theorem State.raise_keys (c : FaultCode) : (s.raise c).keys = s.keys := rfl
@[simp] theorem State.raise_fb (c : FaultCode) : (s.raise c).fb = s.fb := rfl
@[simp] theorem State.raise_dirty (c : FaultCode) : (s.raise c).dirty = s.dirty := rfl
@[simp] theorem State.raise_wait (c : FaultCode) : (s.raise c).wait = s.wait := rfl
@[simp] theorem State.raise_fault (c : FaultCode) : (s.raise c).fault = some c := rfl
@[simp] theorem State.raise_rnd (c : FaultCode) : (s.raise c).rnd = s.rnd := rfl
@[simp] theorem State.raise_inputs (c : FaultCode) : (s.raise c).inputs = s.inputs := rfl
@[simp] theorem State.raise_inputTime (c : FaultCode) : (s.raise c).inputTime = s.inputTime := rfl

/-! `push` -/
@[simp] theorem State.push_mem (a : Word) (h : s.sp.val < 16) : (s.push a h).mem = s.mem := rfl
@[simp] theorem State.push_v (a : Word) (h : s.sp.val < 16) : (s.push a h).v = s.v := rfl
@[simp] theorem State.push_i (a : Word) (h : s.sp.val < 16) : (s.push a h).i = s.i := rfl
@[simp] theorem State.push_pc (a : Word) (h : s.sp.val < 16) : (s.push a h).pc = s.pc := rfl
@[simp] theorem State.push_stack (a : Word) (h : s.sp.val < 16) : (s.push a h).stack = s.stack.set s.sp.val a := rfl
@[simp] theorem State.push_sp (a : Word) (h : s.sp.val < 16) : (s.push a h).sp = ⟨s.sp.val + 1, by omega⟩ := rfl
@[simp] theorem State.push_dt (a : Word) (h : s.sp.val < 16) : (s.push a h).dt = s.dt := rfl
@[simp] theorem State.push_st (a : Word) (h : s.sp.val < 16) : (s.push a h).st = s.st := rfl
@[simp] theorem State.push_keys (a : Word) (h : s.sp.val < 16) : (s.push a h).keys = s.keys := rfl
@[simp] theorem State.push_fb (a : Word) (h : s.sp.val < 16) : (s.push a h).fb = s.fb := rfl
@[simp] theorem State.push_dirty (a : Word) (h : s.sp.val < 16) : (s.push a h).dirty = s.dirty := rfl
@[simp] theorem State.push_wait (a : Word) (h : s.sp.val < 16) : (s.push a h).wait = s.wait := rfl
@[simp] theorem State.push_fault (a : Word) (h : s.sp.val < 16) : (s.push a h).fault = s.fault := rfl
@[simp] theorem State.push_rnd (a : Word) (h : s.sp.val < 16) : (s.push a h).rnd = s.rnd := rfl
@[simp] theorem State.push_inputs (a : Word) (h : s.sp.val < 16) : (s.push a h).inputs = s.inputs := rfl
@[simp] theorem State.push_inputTime (a : Word) (h : s.sp.val < 16) : (s.push a h).inputTime = s.inputTime := rfl

/-! `pop` -/
@[simp] theorem State.pop_mem : (s.pop).mem = s.mem := rfl
@[simp] theorem State.pop_v : (s.pop).v = s.v := rfl
@[simp] theorem State.pop_i : (s.pop).i = s.i := rfl
@[simp] theorem State.pop_pc : (s.pop).pc = s.pc := rfl
@[simp] theorem State.pop_stack : (s.pop).stack = s.stack := rfl
@[simp] theorem State.pop_sp : (s.pop).sp = ⟨s.sp.val - 1, by omega⟩ := rfl
@[simp] theorem State.pop_dt : (s.pop).dt = s.dt := rfl
@[simp] theorem State.pop_st : (s.pop).st = s.st := rfl
@[simp] theorem State.pop_keys : (s.pop).keys = s.keys := rfl
@[simp] theorem State.pop_fb : (s.pop).fb = s.fb := rfl
@[simp] theorem State.pop_dirty : (s.pop).dirty = s.dirty := rfl
@[simp] theorem State.pop_wait : (s.pop).wait = s.wait := rfl
@[simp] theorem State.pop_fault : (s.pop).fault = s.fault := rfl
@[simp] theorem State.pop_rnd : (s.pop).rnd = s.rnd := rfl
@[simp] theorem State.pop_inputs : (s.pop).inputs = s.inputs := rfl
@[simp] theorem State.pop_inputTime : (s.pop).inputTime = s.inputTime := rfl

/-! `present` -/
@[simp] theorem State.present_mem (f : Framebuffer) : (s.present f).mem = s.mem := rfl
@[simp] theorem State.present_v (f : Framebuffer) : (s.present f).v = s.v := rfl
@[simp] theorem State.present_i (f : Framebuffer) : (s.present f).i = s.i := rfl
@[simp] theorem State.present_pc (f : Framebuffer) : (s.present f).pc = s.pc := rfl
@[simp] theorem State.present_stack (f : Framebuffer) : (s.present f).stack = s.stack := rfl
@[simp] theorem State.present_sp (f : Framebuffer) : (s.present f).sp = s.sp := rfl
@[simp] theorem State.present_dt (f : Framebuffer) : (s.present f).dt = s.dt := rfl
@[simp] theorem State.present_st (f : Framebuffer) : (s.present f).st = s.st := rfl
@[simp] theorem State.present_keys (f : Framebuffer) : (s.present f).keys = s.keys := rfl
@[simp] theorem State.present_fb (f : Framebuffer) : (s.present f).fb = f := rfl
@[simp] theorem State.present_dirty (f : Framebuffer) : (s.present f).dirty = true := rfl
@[simp] theorem State.present_wait (f : Framebuffer) : (s.present f).wait = s.wait := rfl
@[simp] theorem State.present_fault (f : Framebuffer) : (s.present f).fault = s.fault := rfl
@[simp] theorem State.present_rnd (f : Framebuffer) : (s.present f).rnd = s.rnd := rfl
@[simp] theorem State.present_inputs (f : Framebuffer) : (s.present f).inputs = s.inputs := rfl
@[simp] theorem State.present_inputTime (f : Framebuffer) : (s.present f).inputTime = s.inputTime := rfl

/-! `takeKey` -/
@[simp] theorem State.takeKey_mem (x : Reg) : (s.takeKey x).mem = s.mem := rfl
@[simp] theorem State.takeKey_v (x : Reg) : (s.takeKey x).v = if s.anyKey then s.v.set x s.lowestKey else s.v := rfl
@[simp] theorem State.takeKey_i (x : Reg) : (s.takeKey x).i = s.i := rfl
@[simp] theorem State.takeKey_pc (x : Reg) : (s.takeKey x).pc = if s.anyKey then s.pc + 2 else s.pc := rfl
@[simp] theorem State.takeKey_stack (x : Reg) : (s.takeKey x).stack = s.stack := rfl
@[simp] theorem State.takeKey_sp (x : Reg) : (s.takeKey x).sp = s.sp := rfl
@[simp] theorem State.takeKey_dt (x : Reg) : (s.takeKey x).dt = s.dt := rfl
@[simp] theorem State.takeKey_st (x : Reg) : (s.takeKey x).st = s.st := rfl
@[simp] theorem State.takeKey_keys (x : Reg) : (s.takeKey x).keys = s.keys := rfl
@[simp] theorem State.takeKey_fb (x : Reg) : (s.takeKey x).fb = s.fb := rfl
@[simp] theorem State.takeKey_dirty (x : Reg) : (s.takeKey x).dirty = s.dirty := rfl
@[simp] theorem State.takeKey_wait (x : Reg) : (s.takeKey x).wait = s.wait := rfl
@[simp] theorem State.takeKey_fault (x : Reg) : (s.takeKey x).fault = s.fault := rfl
@[simp] theorem State.takeKey_rnd (x : Reg) : (s.takeKey x).rnd = s.rnd := rfl
@[simp] theorem State.takeKey_inputs (x : Reg) : (s.takeKey x).inputs = s.inputs := rfl
@[simp] theorem State.takeKey_inputTime (x : Reg) : (s.takeKey x).inputTime = s.inputTime := rfl

/-! `keyWaitCycle` -/
@[simp] theorem State.keyWaitCycle_mem (x : Reg) : (s.keyWaitCycle x).mem = s.mem := rfl
@[simp] theorem State.keyWaitCycle_v (x : Reg) : (s.keyWaitCycle x).v = if s.anyKey then s.v.set x s.lowestKey else s.v := rfl
@[simp] theorem State.keyWaitCycle_i (x : Reg) : (s.keyWaitCycle x).i = s.i := rfl
@[simp] theorem State.keyWaitCycle_pc (x : Reg) : (s.keyWaitCycle x).pc = if s.anyKey then s.pc + 2 else s.pc := rfl
@[simp] theorem State.keyWaitCycle_stack (x : Reg) : (s.keyWaitCycle x).stack = s.stack := rfl
@[simp] theorem State.keyWaitCycle_sp (x : Reg) : (s.keyWaitCycle x).sp = s.sp := rfl
@[simp] theorem State.keyWaitCycle_dt (x : Reg) : (s.keyWaitCycle x).dt = s.dt := rfl
@[simp] theorem State.keyWaitCycle_st (x : Reg) : (s.keyWaitCycle x).st = s.st := rfl
@[simp] theorem State.keyWaitCycle_keys (x : Reg) : (s.keyWaitCycle x).keys = s.keys := rfl
@[simp] theorem State.keyWaitCycle_fb (x : Reg) : (s.keyWaitCycle x).fb = s.fb := rfl
@[simp] theorem State.keyWaitCycle_dirty (x : Reg) : (s.keyWaitCycle x).dirty = s.dirty := rfl
@[simp] theorem State.keyWaitCycle_wait (x : Reg) : (s.keyWaitCycle x).wait = if s.anyKey then none else s.wait := rfl
@[simp] theorem State.keyWaitCycle_fault (x : Reg) : (s.keyWaitCycle x).fault = s.fault := rfl
@[simp] theorem State.keyWaitCycle_rnd (x : Reg) : (s.keyWaitCycle x).rnd = s.rnd := rfl
@[simp] theorem State.keyWaitCycle_inputs (x : Reg) : (s.keyWaitCycle x).inputs = s.inputs := rfl
@[simp] theorem State.keyWaitCycle_inputTime (x : Reg) : (s.keyWaitCycle x).inputTime = s.inputTime := rfl

/-! `sample` -/
@[simp] theorem State.sample_mem : (s.sample).mem = s.mem := rfl
@[simp] theorem State.sample_v : (s.sample).v = s.v := rfl
@[simp] theorem State.sample_i : (s.sample).i = s.i := rfl
@[simp] theorem State.sample_pc : (s.sample).pc = s.pc := rfl
@[simp] theorem State.sample_stack : (s.sample).stack = s.stack := rfl
@[simp] theorem State.sample_sp : (s.sample).sp = s.sp := rfl
@[simp] theorem State.sample_dt : (s.sample).dt = s.dt := rfl
@[simp] theorem State.sample_st : (s.sample).st = s.st := rfl
@[simp] theorem State.sample_keys : (s.sample).keys = s.nextInput.keys := rfl
@[simp] theorem State.sample_fb : (s.sample).fb = s.fb := rfl
@[simp] theorem State.sample_dirty : (s.sample).dirty = s.dirty := rfl
@[simp] theorem State.sample_wait : (s.sample).wait = s.wait := rfl
@[simp] theorem State.sample_fault : (s.sample).fault = s.fault := rfl
@[simp] theorem State.sample_rnd : (s.sample).rnd = s.nextInput.rnd := rfl
@[simp] theorem State.sample_inputs : (s.sample).inputs = s.inputs.tail := rfl
@[simp] theorem State.sample_inputTime : (s.sample).inputTime = s.inputTime + 1 := rfl

/-! `tick` -/
@[simp] theorem State.tick_mem : (s.tick).mem = s.mem := rfl
@[simp] theorem State.tick_v : (s.tick).v = s.v := rfl
@[simp] theorem State.tick_i : (s.tick).i = s.i := rfl
@[simp] theorem State.tick_pc : (s.tick).pc = s.pc := rfl
@[simp] theorem State.tick_stack : (s.tick).stack = s.stack := rfl
@[simp] theorem State.tick_sp : (s.tick).sp = s.sp := rfl
@[simp] theorem State.tick_dt : (s.tick).dt = tickTimer s.dt := rfl
@[simp] theorem State.tick_st : (s.tick).st = tickTimer s.st := rfl
@[simp] theorem State.tick_keys : (s.tick).keys = s.keys := rfl
@[simp] theorem State.tick_fb : (s.tick).fb = s.fb := rfl
@[simp] theorem State.tick_dirty : (s.tick).dirty = s.dirty := rfl
@[simp] theorem State.tick_wait : (s.tick).wait = s.wait := rfl
@[simp] theorem State.tick_fault : (s.tick).fault = s.fault := rfl
@[simp] theorem State.tick_rnd : (s.tick).rnd = s.rnd := rfl
@[simp] theorem State.tick_inputs : (s.tick).inputs = s.inputs := rfl
@[simp] theorem State.tick_inputTime : (s.tick).inputTime = s.inputTime := rfl

/-! `clearDirty` -/
@[simp] theorem State.clearDirty_mem : (s.clearDirty).mem = s.mem := rfl
@[simp] theorem State.clearDirty_v : (s.clearDirty).v = s.v := rfl
@[simp] theorem State.clearDirty_i : (s.clearDirty).i = s.i := rfl
@[simp] theorem State.clearDirty_pc : (s.clearDirty).pc = s.pc := rfl
@[simp] theorem State.clearDirty_stack : (s.clearDirty).stack = s.stack := rfl
@[simp] theorem State.clearDirty_sp : (s.clearDirty).sp = s.sp := rfl
@[simp] theorem State.clearDirty_dt : (s.clearDirty).dt = s.dt := rfl
@[simp] theorem State.clearDirty_st : (s.clearDirty).st = s.st := rfl
@[simp] theorem State.clearDirty_keys : (s.clearDirty).keys = s.keys := rfl
@[simp] theorem State.clearDirty_fb : (s.clearDirty).fb = s.fb := rfl
@[simp] theorem State.clearDirty_dirty : (s.clearDirty).dirty = false := rfl
@[simp] theorem State.clearDirty_wait : (s.clearDirty).wait = s.wait := rfl
@[simp] theorem State.clearDirty_fault : (s.clearDirty).fault = s.fault := rfl
@[simp] theorem State.clearDirty_rnd : (s.clearDirty).rnd = s.rnd := rfl
@[simp] theorem State.clearDirty_inputs : (s.clearDirty).inputs = s.inputs := rfl
@[simp] theorem State.clearDirty_inputTime : (s.clearDirty).inputTime = s.inputTime := rfl

/-! Updates made of others. -/
@[simp] theorem State.advance_eq : s.advance = s.setPc (s.pc + 2) := rfl
@[simp] theorem State.skipIf_eq (c : Bool) : s.skipIf c = s.setPc (s.pc + if c then 4 else 2) := rfl
@[simp] theorem State.setFlag_eq (b : Byte) : s.setFlag b = s.setV 15 b := rfl
@[simp] theorem State.setVFlag_eq (x : Reg) (r f : Byte) :
    s.setVFlag x r f = (s.setV x r).setV 15 f := rfl
@[simp] theorem State.bumpI_eq (x : Reg) :
    s.bumpI x = s.setI (BitVec.ofNat 16 (s.base + x.val + 1)) := rfl
@[simp] theorem execUnknown_eq : execUnknown s = s.setPc (s.pc + 2) := rfl

/-! Readers. -/
theorem State.getV_eq (x : Reg) : s.getV x = s.v[x] := rfl
theorem State.base_eq : s.base = s.i.toNat := rfl
theorem State.keyDown_eq (k : Nat) : s.keyDown k = s.keys.getLsbD k := rfl

/-- `V[y]` after `V[x] <- b`. -/
theorem State.getV_setV (x y : Reg) (b : Byte) :
    (s.setV x b).getV y = if x = y then b else s.getV y := by
  simp only [State.getV, State.setV, Fin.getElem_fin, Vector.getElem_set, Fin.val_inj]

end Sys2Proof.Machine
end

