-- ==== Sys2Proof/Laws/Step.lean ====
section
/-! SUPPORT. What one step can do, said once, by its phases (40_engine.md R100). -/
namespace Sys2Proof.Machine

/-- A step in the fault state (60_exceptions.md R263). -/
theorem engine_fault (p : Config.Params) (s : State) (c : FaultCode) (h : s.fault = some c) :
    engine p s = .next (halted s c) := by
  simp only [engine, h]

/-- A step in the key-wait (40_engine.md R107). -/
theorem engine_wait (p : Config.Params) (s : State) (x : Reg) (hf : s.fault = none)
    (hw : s.wait = some x) :
    engine p s = .next (finish s (s.sample.keyWaitCycle x) false none) := by
  simp only [engine, hf, hw]

/-- A step that cannot fetch (40_engine.md R101). -/
theorem engine_no_fetch (p : Config.Params) (s : State) (hf : s.fault = none) (hw : s.wait = none)
    (hc : s.canFetch = false) : engine p s = .next (faulted s .fetchOutOfRange) := by
  simp only [engine, hf, hw, fetchAndExecute, hc, Bool.false_eq_true, if_false]

/-- A step on an unknown word (40_engine.md R106). -/
theorem engine_unknown (p : Config.Params) (s : State) (hf : s.fault = none) (hw : s.wait = none)
    (hc : s.canFetch = true) (hd : decodeWith p s.fetchWord = none) :
    engine p s = .next (finish s (execUnknown s.sample) false (some (s.pc, s.fetchWord))) := by
  simp only [engine, hf, hw, fetchAndExecute, hc, if_true, hd]

/-- A step that executes an instruction (40_engine.md R103). -/
theorem engine_instr (p : Config.Params) (s t : State) (i : Instr) (hf : s.fault = none)
    (hw : s.wait = none) (hc : s.canFetch = true) (hd : decodeWith p s.fetchWord = some i)
    (he : exec i s.sample = .next t) : engine p s = .next (settle s t (drawsFrame i)) := by
  simp only [engine, hf, hw, fetchAndExecute, hc, if_true, hd, he]

theorem stepWith_of_engine {p : Config.Params} {s : State} {r : State × StepOutcome}
    (h : engine p s = .next r) : stepWith p s = .next r.1 := by
  simp only [stepWith, h]

/-- The state a settled step leaves, where the instruction raised a fault. -/
theorem settle_fault (s t : State) (b : Bool) (c : FaultCode) (h : t.fault = some c) :
    settle s t b = faulted s c := by
  simp only [settle, h]

/-- The state a settled step leaves, where it raised none. -/
theorem settle_next (s t : State) (b : Bool) (h : t.fault = none) :
    settle s t b = finish s t b none := by
  simp only [settle, h]

/-- Everything a step that answers a next state can be: halted, a key-wait cycle, a fetch fault, an
unknown word, an instruction that raised a fault, an instruction that completed. -/
theorem step_cases {s t : State} (h : step s = .next t) :
    (∃ c, s.fault = some c ∧ t = s) ∨
    (∃ x, s.fault = none ∧ s.wait = some x ∧ t = (s.sample.keyWaitCycle x).tick) ∨
    (s.fault = none ∧ s.wait = none ∧ s.canFetch = false ∧ t = s.raise .fetchOutOfRange) ∨
    (s.fault = none ∧ s.wait = none ∧ s.canFetch = true ∧ decode s.fetchWord = none ∧
      t = (s.sample.setPc (s.pc + 2)).tick) ∨
    (∃ i u c, s.Executes i ∧ exec i s.sample = .next u ∧ u.fault = some c ∧ t = s.raise c) ∨
    (∃ i u, s.Executes i ∧ exec i s.sample = .next u ∧ u.fault = none ∧ t = u.tick) := by
  cases hf : s.fault with
  | some c =>
    rw [step, stepWith_of_engine (engine_fault _ s c hf)] at h
    cases h
    exact .inl ⟨c, rfl, rfl⟩
  | none =>
    refine .inr ?_
    cases hw : s.wait with
    | some x =>
      rw [step, stepWith_of_engine (engine_wait _ s x hf hw)] at h
      cases h
      exact .inl ⟨x, rfl, rfl, rfl⟩
    | none =>
      refine .inr ?_
      cases hc : s.canFetch with
      | false =>
        rw [step, stepWith_of_engine (engine_no_fetch _ s hf hw hc)] at h
        cases h
        exact .inl ⟨rfl, rfl, rfl, rfl⟩
      | true =>
        refine .inr ?_
        cases hd : decode s.fetchWord with
        | none =>
          rw [step, stepWith_of_engine (engine_unknown _ s hf hw hc hd)] at h
          cases h
          exact .inl ⟨rfl, rfl, rfl, rfl, rfl⟩
        | some i =>
          refine .inr ?_
          cases he : exec i s.sample with
          | fault r =>
            have hd' : decodeWith Config.params s.fetchWord = some i := hd
            simp only [step, stepWith, engine, hf, hw, fetchAndExecute, hc, if_true, hd', he] at h
            exact nomatch h
          | refused r =>
            have hd' : decodeWith Config.params s.fetchWord = some i := hd
            simp only [step, stepWith, engine, hf, hw, fetchAndExecute, hc, if_true, hd', he] at h
            exact nomatch h
          | next u =>
            rw [step, stepWith_of_engine (engine_instr _ s u i hf hw hc hd he)] at h
            cases hu : u.fault with
            | some c =>
              rw [settle_fault _ _ _ c hu] at h
              cases h
              exact .inl ⟨i, u, c, ⟨hf, hw, hc, hd⟩, he, hu, rfl⟩
            | none =>
              rw [settle_next _ _ _ hu] at h
              cases h
              exact .inr ⟨i, u, ⟨hf, hw, hc, hd⟩, he, hu, rfl⟩

/-- A state executes at most one instruction (30_encoding.md R73). -/
theorem executes_unique {s : State} {i j : Instr} (hi : s.Executes i) (hj : s.Executes j) : i = j :=
  Option.some.inj (hi.2.2.2.symm.trans hj.2.2.2)

/-- The step of a state that executes i, with its Outcome (40_engine.md R100). -/
theorem engine_of_executes {s t : State} {i : Instr} (h : s.Executes i)
    (he : exec i s.sample = .next t) :
    engine Config.params s = .next (settle s t (drawsFrame i)) :=
  engine_instr _ s t i h.1 h.2.1 h.2.2.1 h.2.2.2 he

/-- The step of a state that executes i and raises nothing (40_engine.md R100, R108). -/
theorem step_of_executes {s t : State} {i : Instr} (h : s.Executes i)
    (he : exec i s.sample = .next t) (hf : t.fault = none) : step s = .next t.tick := by
  rw [step, stepWith_of_engine (engine_of_executes h he), settle_next _ _ _ hf]
  rfl

/-- What every step keeps, a run keeps: in each state it leaves and in the one it ends in. -/
theorem trace_keeps {P : State → Prop} (hP : ∀ s t, P s → step s = .next t → P t) :
    ∀ (k : Nat) (s t : State) (l : List State), trace k s = some (l, t) → P s →
      (∀ u ∈ l, P u) ∧ P t := by
  intro k
  induction k with
  | zero =>
    intro s t l h hs
    cases h
    exact ⟨by simp, hs⟩
  | succ k ih =>
    intro s t l h hs
    rw [trace] at h
    split at h
    · rename_i v hv
      obtain ⟨⟨m, w⟩, hm, hr⟩ := Option.map_eq_some_iff.1 h
      cases hr
      have := ih v _ _ hm (hP s v hs hv)
      exact ⟨fun u hu => by
        rcases List.mem_cons.1 hu with rfl | hu
        · exact hs
        · exact this.1 u hu, this.2⟩
    · exact nomatch h

end Sys2Proof.Machine
end

