-- ==== Sys2Proof/Tests/Slice0.lean ====
section
/-! SUPPORT. Tests of the model, expected results from spec/95_test_vectors.md (named by their ids) or by
hand from the rule cited, and for each statement with hypotheses the witnesses that meet them. -/
namespace Sys2Proof.Tests
open Sys2Proof.Machine

/-! ### Helpers -/

/-- The base state of the single vectors: reset with the dirty flag down (95_test_vectors.md). -/
def base : State := { State.reset with dirty := false }

/-- Registers of the base state, by number. -/
def withV (s : State) (l : List (Reg × Byte)) : State :=
  { s with v := l.foldl (fun v p => v.set p.1 p.2) s.v }

/-- Bytes of memory from an address on. -/
def withBytes (s : State) (a : Nat) (bs : List Byte) : State :=
  { s with mem := s.mem.writeBytes a bs }

/-- A word under the next fetch, and the inputs of the next step. -/
def ready (s : State) (w : Nat) (keys : BitVec 16 := 0) (rnd : Byte := 0) : State :=
  { s.withFetchWord 16 w with inputs := [{ keys := keys, rnd := rnd }] }

/-- The state an outcome leaves (any state, where it leaves none: see `isNext`). -/
def after (o : Host.Outcome State Fault Refusal) : State :=
  match o with
  | .next t => t
  | _ => State.reset

/-- Is the outcome a next state? -/
def isNext {α : Type} (o : Host.Outcome α Fault Refusal) : Bool :=
  match o with
  | .next _ => true
  | _ => false

/-- One step, and what must hold of the state it leaves. -/
def stepGives (s : State) (p : State → Bool) : Bool :=
  match step s with
  | .next t => p t
  | _ => false

/-- One step, and what must hold of its Outcome. -/
def stepReports (s : State) (p : StepOutcome → Bool) : Bool :=
  match engine Config.params s with
  | .next r => p r.2
  | _ => false

/-- The fault a vector expects: the step changes the fault state alone. -/
def stepFaults (s : State) (c : FaultCode) : Bool :=
  stepGives s (fun t => t == { s with fault := some c })

/-! ### Well-formedness (30_encoding.md R73) -/

theorem test_sys_0E0_is_ill_formed : WellFormed (.sys 0x0E0) = false := by decide
theorem test_sys_0EE_is_ill_formed : WellFormed (.sys 0x0EE) = false := by decide
theorem test_sys_0E1_is_well_formed : WellFormed (.sys 0x0E1) = true := by decide

/-! ### Decoding: words written out from the layouts of opcode_table.json, bit by bit -/

theorem test_decode_sys : decode 0b0000000100100011 = some (.sys 0x123) := by decide
theorem test_decode_cls : decode 0b0000000011100000 = some .cls := by decide
theorem test_decode_ret : decode 0b0000000011101110 = some .ret := by decide
theorem test_decode_jp : decode 0b0001101010111100 = some (.jp 0xABC) := by decide
theorem test_decode_call : decode 0b0010101111001101 = some (.call 0xBCD) := by decide
theorem test_decode_seImm : decode 0b0011101001000010 = some (.seImm 10 0x42) := by decide
theorem test_decode_sneImm : decode 0b0100101001000010 = some (.sneImm 10 0x42) := by decide
theorem test_decode_seReg : decode 0b0101000100100000 = some (.seReg 1 2) := by decide
theorem test_decode_ldImm : decode 0b0110101001011111 = some (.ldImm 10 0x5F) := by decide
theorem test_decode_addImm : decode 0b0111001000000001 = some (.addImm 2 0x01) := by decide
theorem test_decode_ldReg : decode 0b1000001101000000 = some (.ldReg 3 4) := by decide
theorem test_decode_orReg : decode 0b1000001101000001 = some (.orReg 3 4) := by decide
theorem test_decode_andReg : decode 0b1000001101000010 = some (.andReg 3 4) := by decide
theorem test_decode_xorReg : decode 0b1000001101000011 = some (.xorReg 3 4) := by decide
theorem test_decode_addReg : decode 0b1000001101000100 = some (.addReg 3 4) := by decide
theorem test_decode_subReg : decode 0b1000001101000101 = some (.subReg 3 4) := by decide
theorem test_decode_shr : decode 0b1000001101000110 = some (.shr 3 4) := by decide
theorem test_decode_subnReg : decode 0b1000001101000111 = some (.subnReg 3 4) := by decide
theorem test_decode_shl : decode 0b1000001101001110 = some (.shl 3 4) := by decide
theorem test_decode_sneReg : decode 0b1001000100100000 = some (.sneReg 1 2) := by decide
theorem test_decode_ldI : decode 0b1010001011110000 = some (.ldI 0x2F0) := by decide
theorem test_decode_jpV0 : decode 0b1011001100000001 = some (.jpV0 0x301) := by decide
theorem test_decode_rnd : decode 0b1100001100001111 = some (.rnd 3 0x0F) := by decide
theorem test_decode_drw : decode 0b1101101111000101 = some (.drw 11 12 5) := by decide
theorem test_decode_skp : decode 0b1110010110011110 = some (.skp 5) := by decide
theorem test_decode_sknp : decode 0b1110010110100001 = some (.sknp 5) := by decide
theorem test_decode_ldXDt : decode 0b1111001100000111 = some (.ldXDt 3) := by decide
theorem test_decode_ldXK : decode 0b1111001100001010 = some (.ldXK 3) := by decide
theorem test_decode_ldDtX : decode 0b1111001100010101 = some (.ldDtX 3) := by decide
theorem test_decode_ldStX : decode 0b1111001100011000 = some (.ldStX 3) := by decide
theorem test_decode_addIX : decode 0b1111001000011110 = some (.addIX 2) := by decide
theorem test_decode_ldFX : decode 0b1111101000101001 = some (.ldFX 10) := by decide
theorem test_decode_ldBX : decode 0b1111101000110011 = some (.ldBX 10) := by decide
theorem test_decode_ldMemX : decode 0b1111001001010101 = some (.ldMemX 2) := by decide
theorem test_decode_ldXMem : decode 0b1111001001100101 = some (.ldXMem 2) := by decide

-- V-ENG-1 to V-ENG-6, V-ENG-4: Unknown words.
theorem test_decode_unknown :
    [0xFFFF, 0xF000, 0x5121, 0x9121, 0x8018, 0xE59F].map decode =
      [none, none, none, none, none, none] := by decide

theorem test_decode_bytes :
    decodeBytes Config.params [0x12, 0x34, 0x56] = .ok (.jp 0x234, [0x56]) := by decide
theorem test_decode_too_few_bytes : decodeBytes Config.params [0x12] = .error .truncated := by decide
theorem test_decode_table_word : decodeTableWord 16 0xD015 = some (.drw 0 1 5) := by decide

/-! ### Engine (95_test_vectors.md section 2.1) -/

-- V-ENG-7
theorem test_unknown_word :
    stepGives (ready { base with dt := 2, st := 1 } 0xFFFF)
      (fun t => t.pc == 0x202 && t.dt == 1 && t.st == 0 && t.fault == none) = true := by decide
theorem test_unknown_word_outcome :
    stepReports (ready { base with dt := 2, st := 1 } 0xFFFF)
      (fun o => o == { frameChanged := false, unknown := some (0x200, 0xFFFF), waiting := false,
                       soundEnd := true, fault := none }) = true := by decide
-- V-ENG-8
theorem test_fetch_fault : stepFaults { base with pc := 0xFFF } .fetchOutOfRange = true := by decide
-- V-ENG-10
theorem test_fetch_at_the_top :
    stepGives { base with pc := 0xFFE } (fun t => t.pc == 0x1000 && t.fault == none) = true := by
  decide
-- V-ENG-11
theorem test_halted :
    stepGives { base with fault := some .dataOutOfRange, dt := 5, inputs := [⟨1, 1⟩] }
      (fun t => t.dt == 5 && t.keys == 0 && t.fault == some .dataOutOfRange) = true := by decide
-- V-ENG-12
theorem test_wait_goes_on :
    stepGives { base with wait := some 3, dt := 2, inputs := [⟨0, 0⟩] }
      (fun t => t.dt == 1 && t.pc == 0x200 && t.wait == some 3) = true := by decide
-- V-ENG-13
theorem test_wait_ends :
    stepGives { base with wait := some 3, inputs := [⟨0x8000, 0⟩] }
      (fun t => t.v[3] == 0x0F && t.wait == none && t.pc == 0x202 && t.keys == 0x8000) = true := by
  decide
-- V-ENG-14
theorem test_wait_ends_at_the_top :
    stepGives { base with wait := some 3, pc := 0xFFE, inputs := [⟨1, 0⟩] }
      (fun t => t.v[3] == 0 && t.wait == none && t.pc == 0x1000 && t.fault == none) = true := by
  decide

/-! ### Flow control (section 2.2) -/

-- V-FLW-1
theorem test_sys : stepGives (ready base 0x0123) (fun t => t.pc == 0x202) = true := by decide
-- V-FLW-2
theorem test_ret :
    stepGives (ready { base with sp := 1, stack := base.stack.set 0 0x204 } 0x00EE)
      (fun t => t.sp == 0 && t.pc == 0x206 && t.stack[0] == 0x204) = true := by decide
-- V-FLW-3
theorem test_ret_underflow : stepFaults (ready base 0x00EE) .stackUnderflow = true := by decide
-- V-FLW-4
theorem test_jp : stepGives (ready base 0x1ABC) (fun t => t.pc == 0xABC) = true := by decide
-- V-FLW-7
theorem test_call :
    stepGives (ready { base with sp := 15 } 0x2300)
      (fun t => t.stack[15] == 0x200 && t.sp == 16 && t.pc == 0x300) = true := by decide
-- V-FLW-8
theorem test_call_overflow :
    stepFaults (ready { base with sp := 16, stack := Vector.replicate 16 0x200 } 0x2300)
      .stackOverflow = true := by decide
-- V-FLW-9
theorem test_jpV0 :
    stepGives (ready (withV base [(0, 0x10)]) 0xB300) (fun t => t.pc == 0x310) = true := by decide
-- V-FLW-10
theorem test_jpV0_above_the_top :
    stepGives (ready (withV base [(0, 0xFF)]) 0xBFFF)
      (fun t => t.pc == 0x10FE && t.fault == none) = true := by decide

/-! ### Skips (section 2.3) -/

-- V-SKP-1, V-SKP-2
theorem test_seImm_taken :
    stepGives (ready (withV base [(10, 0x42)]) 0x3A42) (fun t => t.pc == 0x204) = true := by decide
theorem test_seImm_not_taken :
    stepGives (ready (withV base [(10, 0x43)]) 0x3A42) (fun t => t.pc == 0x202) = true := by decide
-- V-SKP-3, V-SKP-4
theorem test_sneImm_taken :
    stepGives (ready (withV base [(10, 0x43)]) 0x4A42) (fun t => t.pc == 0x204) = true := by decide
theorem test_sneImm_not_taken :
    stepGives (ready (withV base [(10, 0x42)]) 0x4A42) (fun t => t.pc == 0x202) = true := by decide
-- V-SKP-5, V-SKP-6
theorem test_seReg_taken :
    stepGives (ready (withV base [(1, 7), (2, 7)]) 0x5120) (fun t => t.pc == 0x204) = true := by
  decide
theorem test_seReg_not_taken :
    stepGives (ready (withV base [(1, 7), (2, 8)]) 0x5120) (fun t => t.pc == 0x202) = true := by
  decide
-- V-SKP-7, V-SKP-8
theorem test_sneReg_taken :
    stepGives (ready (withV base [(1, 7), (2, 8)]) 0x9120) (fun t => t.pc == 0x204) = true := by
  decide
theorem test_sneReg_not_taken :
    stepGives (ready (withV base [(1, 7), (2, 7)]) 0x9120) (fun t => t.pc == 0x202) = true := by
  decide

/-! ### ALU (section 2.4) -/

-- V-ALU-1
theorem test_ldImm :
    stepGives (ready base 0x6A5F) (fun t => t.v[10] == 0x5F && t.pc == 0x202) = true := by decide
-- V-ALU-2
theorem test_addImm :
    stepGives (ready (withV base [(2, 0xFF), (15, 0x33)]) 0x7201)
      (fun t => t.v[2] == 0 && t.v[15] == 0x33 && t.pc == 0x202) = true := by decide
-- V-ALU-4
theorem test_ldReg :
    stepGives (ready (withV base [(1, 0x2A)]) 0x8010)
      (fun t => t.v[0] == 0x2A && t.v[1] == 0x2A) = true := by decide
-- V-ALU-5
theorem test_orReg :
    stepGives (ready (withV base [(0, 0xF0), (1, 0x0F), (15, 0x55)]) 0x8011)
      (fun t => t.v[0] == 0xFF && t.v[15] == 0x55) = true := by decide
-- V-ALU-6
theorem test_andReg :
    stepGives (ready (withV base [(0, 0xF0), (1, 0x3C)]) 0x8012) (fun t => t.v[0] == 0x30) = true := by
  decide
-- V-ALU-7
theorem test_xorReg :
    stepGives (ready (withV base [(0, 0xF0), (1, 0x3C)]) 0x8013) (fun t => t.v[0] == 0xCC) = true := by
  decide
-- V-ALU-8
theorem test_addReg :
    stepGives (ready (withV base [(0, 0xFF), (1, 1)]) 0x8014)
      (fun t => t.v[0] == 0 && t.v[15] == 1) = true := by decide
-- V-ALU-10
theorem test_addReg_into_VF :
    stepGives (ready (withV base [(15, 0x80), (1, 0x80)]) 0x8F14) (fun t => t.v[15] == 1) = true := by
  decide
-- V-ALU-12
theorem test_subReg :
    stepGives (ready (withV base [(0, 5), (1, 7)]) 0x8015)
      (fun t => t.v[0] == 0xFE && t.v[15] == 0) = true := by decide
-- V-ALU-15
theorem test_subReg_into_VF :
    stepGives (ready (withV base [(15, 1), (1, 2)]) 0x8F15) (fun t => t.v[15] == 0) = true := by decide
-- V-ALU-16
theorem test_shr :
    stepGives (ready (withV base [(0, 5)]) 0x8006)
      (fun t => t.v[0] == 2 && t.v[15] == 1) = true := by decide
-- V-ALU-17
theorem test_shr_ignores_y :
    stepGives (ready (withV base [(1, 0x80), (2, 0xFF)]) 0x8126)
      (fun t => t.v[1] == 0x40 && t.v[15] == 0 && t.v[2] == 0xFF) = true := by decide
-- V-ALU-19
theorem test_subnReg_borrow :
    stepGives (ready (withV base [(0, 7), (1, 5)]) 0x8017)
      (fun t => t.v[0] == 0xFE && t.v[15] == 0) = true := by decide
-- V-ALU-20
theorem test_subnReg :
    stepGives (ready (withV base [(0, 5), (1, 7)]) 0x8017)
      (fun t => t.v[0] == 2 && t.v[15] == 1) = true := by decide
-- V-ALU-21
theorem test_shl :
    stepGives (ready (withV base [(0, 0x81)]) 0x800E)
      (fun t => t.v[0] == 2 && t.v[15] == 1) = true := by decide
-- V-ALU-23
theorem test_shl_into_VF :
    stepGives (ready (withV base [(15, 0x80)]) 0x8FFE) (fun t => t.v[15] == 1) = true := by decide
-- V-ALU-24
theorem test_rnd :
    stepGives (ready base 0xC30F 0 0xA7) (fun t => t.v[3] == 7 && t.pc == 0x202) = true := by decide

/-! ### Index register and memory (section 2.5) -/

-- V-MEM-1
theorem test_ldI : stepGives (ready base 0xA2F0) (fun t => t.i == 0x2F0) = true := by decide
-- V-MEM-5
theorem test_addIX :
    stepGives (ready (withV { base with i := 0xFFFF } [(2, 2)]) 0xF21E)
      (fun t => t.i == 1 && t.v[15] == 1) = true := by decide
-- V-MEM-6
theorem test_addIX_of_VF :
    stepGives (ready (withV { base with i := 0x0FF0 } [(15, 0x20)]) 0xFF1E)
      (fun t => t.i == 0x1010 && t.v[15] == 1) = true := by decide
-- V-MEM-8
theorem test_ldFX :
    stepGives (ready (withV base [(10, 0xFF)]) 0xFA29) (fun t => t.i == 0x4FB) = true := by decide
-- V-MEM-9
theorem test_ldBX :
    stepGives (ready (withV { base with i := 0x300 } [(0, 157)]) 0xF033)
      (fun t => t.mem.readBytes 0x300 3 == [1, 5, 7] && t.i == 0x300) = true := by decide
-- V-MEM-13
theorem test_ldBX_fault :
    stepFaults (ready (withV { base with i := 0xFFE } [(0, 1)]) 0xF033) .dataOutOfRange = true := by
  decide
-- V-MEM-14
theorem test_ldMemX :
    stepGives (ready (withV { base with i := 0x300 } [(0, 1), (1, 2), (2, 3), (3, 4)]) 0xF255)
      (fun t => t.mem.readBytes 0x300 4 == [1, 2, 3, 0] && t.i == 0x303) = true := by decide
-- V-MEM-16
theorem test_ldMemX_fault :
    stepFaults (ready { base with i := 0xFFF } 0xF155) .dataOutOfRange = true := by decide
-- V-MEM-17
theorem test_ldXMem :
    stepGives (ready (withBytes { base with i := 0x300 } 0x300 [1, 5, 7, 9]) 0xF265)
      (fun t => t.v[0] == 1 && t.v[1] == 5 && t.v[2] == 7 && t.v[3] == 0 && t.i == 0x303) = true := by
  decide
-- V-MEM-19
theorem test_ldXMem_fault :
    stepFaults (ready { base with i := 0x1000 } 0xF065) .dataOutOfRange = true := by decide

/-! ### Framebuffer (section 2.6) -/

/-- A framebuffer with the listed cells 1. -/
def cells (l : List (Nat × Nat)) : Framebuffer :=
  l.foldl (fun f p => f.toggle p.1 p.2) Framebuffer.clear

-- V-DSP-1
theorem test_cls :
    stepGives (ready { base with fb := cells [(0, 0), (63, 31)] } 0x00E0)
      (fun t => t.fb == cells [] && t.dirty && t.pc == 0x202) = true := by decide
-- V-DSP-4
theorem test_drw_collision :
    stepGives (ready { base with fb := cells [(0, 0)] } 0xD011)
      (fun t => t.fb == cells [(1, 0), (2, 0), (3, 0)] && t.v[15] == 1 && t.dirty) = true := by decide
-- V-DSP-11
theorem test_drw_at_VF :
    stepGives (ready (withV base [(15, 8)]) 0xDF05)
      (fun t => t.v[15] == 0 && t.fb == cells
        ([(8, 0), (9, 0), (10, 0), (11, 0), (8, 1), (8, 2), (8, 3)] ++
         [(11, 1), (11, 2), (11, 3), (8, 4), (9, 4), (10, 4), (11, 4)])) = true := by decide

/-! ### Keys and timers (section 2.7) -/

-- V-KT-1
theorem test_skp :
    stepGives (ready (withV base [(5, 7)]) 0xE59E 0x0080)
      (fun t => t.pc == 0x204 && t.keys == 0x0080) = true := by decide
-- V-KT-3
theorem test_skp_fault :
    stepFaults (ready (withV base [(5, 16)]) 0xE59E 0xFFFF) .keyOutOfRange = true := by decide
-- V-KT-4
theorem test_sknp :
    stepGives (ready (withV base [(5, 7)]) 0xE5A1 0) (fun t => t.pc == 0x204) = true := by decide
-- V-KT-5
theorem test_sknp_pressed :
    stepGives (ready (withV base [(5, 7)]) 0xE5A1 0x0080) (fun t => t.pc == 0x202) = true := by decide
-- V-KT-6
theorem test_ldXDt :
    stepGives (ready { base with dt := 0x3C } 0xF307)
      (fun t => t.v[3] == 0x3C && t.dt == 0x3B) = true := by decide
-- V-KT-8
theorem test_ldXK :
    stepGives (ready base 0xF30A 0x0090)
      (fun t => t.v[3] == 4 && t.wait == none && t.pc == 0x202) = true := by decide
-- V-KT-9
theorem test_ldXK_waits :
    stepGives (ready base 0xF30A 0) (fun t => t.wait == some 3 && t.pc == 0x200) = true := by decide
-- V-KT-11
theorem test_ldDtX :
    stepGives (ready (withV base [(0, 5)]) 0xF015) (fun t => t.dt == 4) = true := by decide
-- V-KT-14
theorem test_ldStX :
    stepGives (ready (withV { base with st := 3 } [(1, 0)]) 0xF118) (fun t => t.st == 0) = true := by
  decide
theorem test_ldStX_outcome :
    stepReports (ready (withV { base with st := 3 } [(1, 0)]) 0xF118) (fun o => o.soundEnd) = true := by
  decide

/-! ### Reset and load (S11, S12) -/

theorem test_reset :
    State.reset.pc = 0x200 ∧ State.reset.dirty = true ∧ State.reset.mem.read 0x004F = 0x80 ∧
      State.reset.mem.read 0x0050 = 0 := by decide
theorem test_load :
    (after (base.loadProgram [0x60, 0x05])).mem.readBytes 0x1FF 4 = [0x00, 0x60, 0x05, 0x00] := by
  decide

/-! ### Witnesses: states and operands that meet the hypotheses of the statements

Each is named after its statement, and where a statement has several clauses, after the clause too. -/

/-- What `State.Executes` asks, as one check. -/
theorem executes_of {s : State} {i : Instr}
    (h : (s.fault == none && s.wait == none && s.canFetch && decode s.fetchWord == some i) = true) :
    s.Executes i := by
  simp only [Bool.and_eq_true, beq_iff_eq] at h
  exact ⟨h.1.1.1, h.1.1.2, h.1.2, h.2⟩

/-- A state whose word decodes to something else does not execute i. -/
theorem not_executes {s : State} {i : Instr} (h : (decode s.fetchWord == some i) = false) :
    ¬ s.Executes i :=
  fun e => absurd e.2.2.2 (by simpa using h)

/-- The state a step leaves. -/
def next (s : State) : State := after (step s)

theorem test_DecodeOfEncode : WellFormed (.sys 0x0EF) = true ∧ WellFormed (.drw 15 15 15) = true := by
  decide
theorem test_EncodeOfDecode :
    decodeWith { p9XY0 := .unknown, p0NNN := .unknown } 0x00EE = some .ret ∧
      decodeWith Config.params 0x1ABC = some (.jp 0xABC) := by decide
theorem test_UnknownWords_each_clause :
    [0x5121, 0x8018, 0x9121, 0xE59F, 0xFFFF].map (decodeWith Config.params) =
      [none, none, none, none, none] ∧
    decodeWith { p9XY0 := .unknown, p0NNN := .sysNop } 0x9120 = none ∧
    decodeWith { p9XY0 := .sne, p0NNN := .unknown } 0x0123 = none := by decide

/-- V-FLW-7 as a state. -/
def callState : State := ready { base with sp := 15 } 0x2300
/-- V-FLW-3 as a state: a RET that raises its fault. -/
def retState : State := ready base 0x00EE
/-- V-ENG-1 as a state. -/
def unknownState : State := ready base 0xFFFF
/-- V-ENG-12 as a state. -/
def waitState (keys : BitVec 16) : State := { base with wait := some 3, inputs := [⟨keys, 0⟩] }

theorem test_StepRunsTheDecodedInstruction :
    callState.fault = none ∧ callState.wait = none ∧ callState.pc.toNat ≤ 0xFFE ∧
      decodeBytes Config.params
        [callState.mem.read callState.pc.toNat, callState.mem.read (callState.pc.toNat + 1)] =
        .ok (.call 0x300, []) ∧
      exec (.call 0x300) callState.sample = .next (after (exec (.call 0x300) callState.sample)) ∧
      (after (exec (.call 0x300) callState.sample)).fault = none :=
  ⟨rfl, rfl, by decide, by rfl, rfl, rfl⟩
theorem test_StepRunsTheDecodedInstruction_fault :
    exec .ret retState.sample = .next (after (exec .ret retState.sample)) ∧
      (after (exec .ret retState.sample)).fault = some .stackUnderflow := ⟨rfl, rfl⟩
theorem test_FetchIsBigEndian :
    let s := { base with pc := 0xFFF }
    s.fault = none ∧ s.wait = none ∧ 0xFFF < s.pc.toNat + 1 := by decide
theorem test_FetchIsBigEndian_not_at_0xFFE : ¬ 0xFFF < { base with pc := 0xFFE }.pc.toNat + 1 := by
  decide
theorem test_UnknownWordIsPassedOver :
    unknownState.fault = none ∧ unknownState.wait = none ∧ unknownState.pc.toNat ≤ 0xFFE ∧
      decodeWith Config.params unknownState.fetchWord = none := by decide
theorem test_UnknownWordIsPassedOver_9XY0 :
    let s := ready base 0x9120
    s.fault = none ∧ s.wait = none ∧ s.pc.toNat ≤ 0xFFE ∧
      decodeWith { p9XY0 := .unknown, p0NNN := .sysNop } s.fetchWord = none := by decide
theorem test_UnknownWordIsPassedOver_0NNN :
    let s := ready base 0x0123
    s.fault = none ∧ s.wait = none ∧ s.pc.toNat ≤ 0xFFE ∧
      decodeWith { p9XY0 := .sne, p0NNN := .unknown } s.fetchWord = none := by decide
theorem test_FaultStateIsSticky :
    { base with fault := some .keyOutOfRange }.fault = some .keyOutOfRange := by decide
theorem test_KeyWaitCycle_no_key :
    (waitState 0).fault = none ∧ (waitState 0).wait = some 3 ∧ (waitState 0).nextInput.keys = 0 := by
  decide
theorem test_KeyWaitCycle_lowest_key :
    (waitState 0x0090).fault = none ∧ (waitState 0x0090).wait = some 3 ∧
      (waitState 0x0090).nextInput.keys.getLsbD 4 = true ∧
      ∀ j < 4, (waitState 0x0090).nextInput.keys.getLsbD j = false := by decide
theorem test_KeyWaitCycle_key_15 :
    (waitState 0x8000).nextInput.keys.getLsbD 15 = true ∧
      ∀ j < 15, (waitState 0x8000).nextInput.keys.getLsbD j = false := by decide

/-- V-ENG-7 as a state. -/
def runState : State := ready { base with dt := 2, st := 1 } 0xFFFF
/-- V-KT-11 as a state. -/
def dtState : State := ready (withV base [(0, 5)]) 0xF015
/-- V-KT-13 as a state. -/
def stState : State := ready (withV base [(1, 0x10)]) 0xF118

theorem test_TimersTickOncePerStep_each_clause :
    (step retState = .next (next retState) ∧ (next retState).fault ≠ none) ∧
    (step dtState = .next (next dtState) ∧ (next dtState).fault = none ∧
      dtState.Executes (.ldDtX 0)) ∧
    (step stState = .next (next stState) ∧ (next stState).fault = none ∧
      stState.Executes (.ldStX 1)) :=
  ⟨⟨by rfl, by decide⟩, ⟨by rfl, by decide, executes_of (by decide)⟩,
    ⟨by rfl, by decide, executes_of (by decide)⟩⟩
theorem test_TimersTickOncePerStep_ldXDt :
    let s := ready { base with dt := 0x3C } 0xF307
    step s = .next (next s) ∧ (next s).fault = none ∧ s.Executes (.ldXDt 3) :=
  ⟨by rfl, by decide, executes_of (by decide)⟩
theorem test_TimersTickOncePerStep_neither :
    (∀ x, ¬ unknownState.Executes (.ldDtX x)) ∧ ∀ x, ¬ unknownState.Executes (.ldStX x) := by
  have h : decode unknownState.fetchWord = none := by decide
  exact ⟨fun x => not_executes (by rw [h]; rfl), fun x => not_executes (by rw [h]; rfl)⟩
theorem test_TimersOverARun :
    trace 1 runState = some ([runState], next runState) ∧ (∀ u ∈ [runState], u.fault = none) ∧
      (next runState).fault = none ∧
      ∀ u ∈ [runState], ∀ x, ¬ u.Executes (.ldDtX x) ∧ ¬ u.Executes (.ldStX x) := by
  have h : decode runState.fetchWord = none := by decide
  refine ⟨by rfl, by decide, by decide, fun u hu x => ?_⟩
  cases List.mem_singleton.1 hu
  exact ⟨not_executes (by rw [h]; rfl), not_executes (by rw [h]; rfl)⟩
theorem test_KeysAreTheStepsSnapshot :
    step callState = .next (next callState) ∧ (next callState).fault = none ∧
      step retState = .next (next retState) ∧ (next retState).fault ≠ none :=
  ⟨by rfl, by decide, by rfl, by decide⟩
theorem test_OutcomeOfANonFaultingStep :
    engine Config.params unknownState =
      .next (next unknownState, StepOutcome.mk false (some (0x200, 0xFFFF)) false false none) ∧
      (next unknownState).fault = none := ⟨by rfl, by decide⟩
theorem test_FaultsArePrecise :
    retState.fault = none ∧ step retState = .next (next retState) ∧
      (next retState).fault = some .stackUnderflow := ⟨rfl, by rfl, by decide⟩
theorem test_FaultsArePrecise_Outcome :
    engine { p9XY0 := .unknown, p0NNN := .unknown } retState =
      .next (next retState, StepOutcome.mk false none false false (some .stackUnderflow)) := by rfl

-- The right sides of FaultsHappenExactlyWhen, each at the boundary of its range.
theorem test_FaultsHappenExactlyWhen_fetch :
    { base with pc := 0xFFF }.fault = none ∧ { base with pc := 0xFFF }.wait = none ∧
      0xFFE < { base with pc := 0xFFF }.pc.toNat := by decide
theorem test_FaultsHappenExactlyWhen_call :
    let s := ready { base with sp := 16 } 0x2300
    s.Executes (.call 0x300) ∧ s.sp.val = 16 := ⟨executes_of (by decide), by decide⟩
theorem test_FaultsHappenExactlyWhen_ret : retState.Executes .ret ∧ retState.sp.val = 0 :=
  ⟨executes_of (by decide), by decide⟩
theorem test_FaultsHappenExactlyWhen_ldBX :
    let s := ready { base with i := 0xFFE } 0xF033
    s.Executes (.ldBX 0) ∧ 0xFFF < s.i.toNat + 2 := ⟨executes_of (by decide), by decide⟩
theorem test_FaultsHappenExactlyWhen_ldMemX :
    let s := ready { base with i := 0xFFF } 0xF155
    s.Executes (.ldMemX 1) ∧ 0xFFF < s.i.toNat + (1 : Reg).val := ⟨executes_of (by decide), by decide⟩
theorem test_FaultsHappenExactlyWhen_ldXMem :
    let s := ready { base with i := 0x1000 } 0xF065
    s.Executes (.ldXMem 0) ∧ 0xFFF < s.i.toNat + (0 : Reg).val := ⟨executes_of (by decide), by decide⟩

/-- V-DSP-9 as a state: a sprite byte above 0xFFF. -/
def drwDataState : State := ready { base with i := 0xFFF } 0xD012
/-- V-DSP-8 as a state: a set bit at row 32. -/
def drwRowState : State :=
  ready (withV (withBytes { base with i := 0x300 } 0x300 [0x80, 0x80]) [(1, 31)]) 0xD012
/-- V-DSP-7 as a state: a set bit at column 64. -/
def drwColumnState : State :=
  ready (withV (withBytes { base with i := 0x300 } 0x300 [0xF0]) [(0, 61)]) 0xD011

theorem test_FaultsHappenExactlyWhen_drw_data :
    drwDataState.Executes (.drw 0 1 2) ∧ 1 ≤ (2 : Rows).toNat ∧
      0xFFF < drwDataState.i.toNat + (2 : Rows).toNat - 1 := ⟨executes_of (by decide), by decide⟩
theorem test_FaultsHappenExactlyWhen_drw_row :
    drwRowState.Executes (.drw 0 1 2) ∧ drwRowState.i.toNat + (2 : Rows).toNat - 1 ≤ 0xFFF ∧
      ∃ r < (2 : Rows).toNat, ∃ c < 8,
        (drwRowState.mem.read (drwRowState.i.toNat + r)).getLsbD (7 - c) = true ∧
          31 < drwRowState.v[1].toNat + r :=
  ⟨executes_of (by decide), by decide, 1, by decide, 0, by decide, by decide⟩
theorem test_FaultsHappenExactlyWhen_drw_column :
    drwColumnState.Executes (.drw 0 1 1) ∧
      ∃ r < (1 : Rows).toNat, ∃ c < 8,
        (drwColumnState.mem.read (drwColumnState.i.toNat + r)).getLsbD (7 - c) = true ∧
          63 < drwColumnState.v[0].toNat + c :=
  ⟨executes_of (by decide), 0, by decide, 3, by decide, by decide⟩
theorem test_FaultsHappenExactlyWhen_keys :
    let s := ready (withV base [(5, 16)]) 0xE59E
    let s' := ready (withV base [(5, 16)]) 0xE5A1
    s.Executes (.skp 5) ∧ 15 < s.v[5].toNat ∧ s'.Executes (.sknp 5) ∧ 15 < s'.v[5].toNat :=
  ⟨executes_of (by decide), by decide, executes_of (by decide), by decide⟩

theorem test_ResetMeetsTheInvariant_parts :
    Memory.wf State.reset.mem ∧ State.reset.pc.toNat ≤ 0x10FE ∧
      ∀ j : Fin 16, State.reset.stack[j].toNat ≤ 0xFFE := by decide
theorem test_callState_Inv : Inv callState :=
  ⟨by decide, by decide, by decide, by decide⟩
theorem test_StepKeepsTheInvariant : Inv callState ∧ step callState = .next (next callState) :=
  ⟨test_callState_Inv, by rfl⟩
theorem test_StepKeepsTheInvariant_in_a_wait :
    Inv { waitState 1 with pc := 0xFFE } ∧
      (next { waitState 1 with pc := 0xFFE }).pc = 0x1000 :=
  ⟨⟨by decide, by decide, by decide, by decide⟩, by decide⟩
theorem test_HostActionsKeepTheInvariant :
    Inv callState ∧
      callState.loadProgram [0x60, 0x05] = .next (after (callState.loadProgram [0x60, 0x05])) :=
  ⟨test_callState_Inv, rfl⟩

theorem test_OnlyTheseInstructionsWriteVF :
    let s := withV base [(0, 0xFF), (1, 1)]
    (exec (.addReg 0 1) s = .next (after (exec (.addReg 0 1) s)) ∧ s.fault = none ∧
      (after (exec (.addReg 0 1) s)).fault = none) ∧
    (exec (.ldImm 14 3) s = .next (after (exec (.ldImm 14 3) s)) ∧
      (after (exec (.ldImm 14 3) s)).fault = none ∧ (14 : Reg) ≠ 15) ∧
    (exec (.jp 0x300) s = .next (after (exec (.jp 0x300) s)) ∧
      (after (exec (.jp 0x300) s)).fault = none) :=
  ⟨⟨rfl, rfl, rfl⟩, ⟨rfl, rfl, by decide⟩, rfl, rfl⟩
theorem test_EachFieldHasItsWriters :
    exec (.ldImm 1 3) base = .next (after (exec (.ldImm 1 3) base)) ∧
      (∀ nnn, Instr.ldImm 1 3 ≠ .call nnn) ∧ (∀ x, Instr.ldImm 1 3 ≠ .ldXK x) ∧
      (∀ x, Instr.ldImm 1 3 ≠ .ldBX x ∧ Instr.ldImm 1 3 ≠ .ldMemX x) :=
  ⟨rfl, by simp, by simp, by simp⟩
theorem test_RegistersPcAndFaultHaveTheirWriters :
    exec (.ldImm 1 3) base = .next (after (exec (.ldImm 1 3) base)) ∧
      (after (exec (.ldImm 1 3) base)).v[(1 : Reg)] ≠ base.v[(1 : Reg)] := ⟨rfl, by decide⟩
theorem test_RegistersPcAndFaultHaveTheirWriters_fault :
    exec .ret base = .next (after (exec .ret base)) ∧
      (after (exec .ret base)).fault = some .stackUnderflow := ⟨rfl, by decide⟩
theorem test_DirtyIsSetByDrawing :
    exec .cls base = .next (after (exec .cls base)) ∧ base.fault = none ∧
      (after (exec .cls base)).fault = none ∧
      exec (.drw 0 1 5) base = .next (after (exec (.drw 0 1 5) base)) ∧
      (after (exec (.drw 0 1 5) base)).fault = none :=
  ⟨rfl, rfl, rfl, rfl, by decide⟩
theorem test_DirtyStays :
    let s := { unknownState with dirty := true }
    step s = .next (next s) ∧ s.dirty = true := ⟨by rfl, rfl⟩
theorem test_StoresTouchOnlyTheirBytes :
    let s := { base with i := 0xFFD }
    Memory.wf s.mem ∧ exec (.ldBX 0) s = .next (after (exec (.ldBX 0) s)) ∧ s.base + 2 < 0x1000 ∧
      0xFFC < s.base ∧ exec (.ldMemX 1) s = .next (after (exec (.ldMemX 1) s)) ∧
      s.base + (1 : Reg).val < 0xFFF := ⟨by decide, rfl, by decide, by decide, rfl, by decide⟩
theorem test_LoadsReadOnlyTheirBytes :
    let m := base.mem.write 0x302 7
    (∀ r < (2 : Rows).toNat, m.read ({ base with i := 0x300 }.base + r) =
      base.mem.read ({ base with i := 0x300 }.base + r)) ∧
    (∀ r ≤ (1 : Reg).val, m.read ({ base with i := 0x300 }.base + r) =
      base.mem.read ({ base with i := 0x300 }.base + r)) ∧
    exec (.drw 0 1 2) { base with i := 0x300 } =
      .next (after (exec (.drw 0 1 2) { base with i := 0x300 })) ∧
    exec (.ldXMem 1) { base with i := 0x300 } =
      .next (after (exec (.ldXMem 1) { base with i := 0x300 })) :=
  ⟨by decide, by decide, rfl, rfl⟩
theorem test_RandomByteMattersOnlyToRnd :
    (∀ x nn, Instr.cls ≠ .rnd x nn) ∧ exec .cls base = .next (after (exec .cls base)) :=
  ⟨by simp, rfl⟩

theorem test_JumpsLand_above_the_top :
    0xFFE < (after (exec (.jp 0xFFF) base)).pc.toNat ∧
      0xFFE < (after (exec (.jpV0 0xFFF) (withV base [(0, 0xFF)]))).pc.toNat ∧
      ¬ 0xFFE < (after (exec (.jp 0xFFE) base)).pc.toNat ∧ base.fault = none ∧ base.wait = none := by
  decide
theorem test_CallPushes_each_clause :
    { base with sp := 15 }.sp.val < 16 ∧ { base with sp := 16 }.sp.val = 16 := by decide
theorem test_RetPops_each_clause :
    { base with sp := 1 }.sp.val = (0 : Fin 16).val + 1 ∧
      { base with sp := 16 }.sp.val = (15 : Fin 16).val + 1 ∧ base.sp.val = 0 := by decide

/-- CALL 0x300 at 0x200; at 0x300 LD VA, 0x5F and then RET. -/
def roundTrip : State := withBytes (ready base 0x2300) 0x300 [0x6A, 0x5F, 0x00, 0xEE]

theorem test_CallThenRetComesBack :
    roundTrip.Executes (.call 0x300) ∧ roundTrip.sp.val < 16 ∧
      step roundTrip = .next (next roundTrip) ∧
      trace 1 (next roundTrip) = some ([next roundTrip], next (next roundTrip)) ∧
      (∀ w ∈ [next roundTrip], ¬ w.Executes .ret ∧ ∀ m, ¬ w.Executes (.call m)) ∧
      (next (next roundTrip)).Executes .ret := by
  have h : decode (next roundTrip).fetchWord = some (.ldImm 10 0x5F) := by decide
  refine ⟨executes_of (by decide), by decide, by rfl, by rfl, fun w hw => ?_, executes_of (by decide)⟩
  cases List.mem_singleton.1 hw
  exact ⟨not_executes (by rw [h]; rfl), fun m => not_executes (by rw [h]; rfl)⟩
theorem test_CallThenRetComesBack_at_once :
    let s := withBytes (ready { base with sp := 15 } 0x2300) 0x300 [0x00, 0xEE]
    s.Executes (.call 0x300) ∧ s.sp.val < 16 ∧ step s = .next (next s) ∧
      trace 0 (next s) = some ([], next s) ∧ (next s).Executes .ret :=
  ⟨executes_of (by decide), by decide, by rfl, rfl, executes_of (by decide)⟩

/-- V-SKP-10 as a state. -/
def skipAtTop : State := ready { base with pc := 0xFFC } 0x3000

theorem test_SkipPastTheTopFaultsAtTheNextFetch :
    skipAtTop.Executes (.seImm 0 0) ∧ step skipAtTop = .next (next skipAtTop) ∧
      (next skipAtTop).pc = skipAtTop.pc + 4 ∧ 0xFFC ≤ skipAtTop.pc.toNat :=
  ⟨executes_of (by decide), by rfl, by decide, by decide⟩
theorem test_SkipPastTheTop_by_SKP :
    let s := ready { base with pc := 0xFFE } 0xE09E 1
    s.Executes (.skp 0) ∧ step s = .next (next s) ∧ (next s).pc = s.pc + 4 ∧ 0xFFC ≤ s.pc.toNat :=
  ⟨executes_of (by decide), by rfl, by decide, by decide⟩

theorem test_ALU_register_numbers :
    (0 : Reg) ≠ 15 ∧ (2 : Reg) ≠ 0 ∧ (2 : Reg) ≠ 15 := by decide
theorem test_DecimalStore_each_clause :
    Memory.wf base.mem ∧ { base with i := 0xFFD }.base + 2 ≤ 0xFFF ∧
      0xFFF < { base with i := 0xFFE }.base + 2 := by decide
theorem test_RegisterStore_and_Load_each_clause :
    Memory.wf base.mem ∧ { base with i := 0xFFF }.base + (0 : Reg).val ≤ 0xFFF ∧
      0xFFF < { base with i := 0xFFF }.base + (1 : Reg).val ∧ (0 : Reg) ≤ 0 := by decide
-- FX55 over both bytes of the next word, over its second byte alone, and over its first byte alone.
theorem test_NextFetchSeesTheStore_both_bytes :
    let s := ready { base with i := 0x202 } 0xF155
    Memory.wf s.mem ∧ s.Executes (.ldMemX 1) ∧ s.base + ((1 : Reg).val + 1) ≤ 0x1000 ∧
      s.base + 0 = s.pc.toNat + 2 ∧ s.base + 1 = s.pc.toNat + 3 ∧
      ∀ j : Reg, j ≤ 1 → (0 : Byte) = s.v[j] :=
  ⟨by decide, executes_of (by decide), by decide, by decide, by decide, by decide⟩
theorem test_NextFetchSeesTheStore_low_byte :
    let s := ready { base with i := 0x203 } 0xF055
    Memory.wf s.mem ∧ s.Executes (.ldMemX 0) ∧ s.base + ((0 : Reg).val + 1) ≤ 0x1000 ∧
      s.pc.toNat + 2 < s.base ∧ s.base + 0 = s.pc.toNat + 3 :=
  ⟨by decide, executes_of (by decide), by decide, by decide, by decide⟩
-- FX33 whose units digit is the first byte of the next word, and whose other two overwrite its own.
theorem test_NextFetchSeesTheStore_FX33 :
    let s := ready (withV { base with i := 0x200 } [(0, 157)]) 0xF033
    Memory.wf s.mem ∧ s.Executes (.ldBX 0) ∧ s.base + 3 ≤ 0x1000 ∧ s.base + 2 = s.pc.toNat + 2 ∧
      s.base + 3 ≤ s.pc.toNat + 3 ∧ (1 : Byte).toNat = s.v[(0 : Reg)].toNat / 100 ∧
      (5 : Byte).toNat = s.v[(0 : Reg)].toNat / 10 % 10 ∧
      (7 : Byte).toNat = s.v[(0 : Reg)].toNat % 10 :=
  ⟨by decide, executes_of (by decide), by decide, by decide, by decide, by decide, by decide,
    by decide⟩
theorem test_NextFetchSeesTheStore_runs_it :
    let s := ready { base with i := 0x202 } 0xF155
    s.pc.toNat ≤ 0xFFC ∧ decode (wordOfBytes 0 0) = some (.sys 0) := by decide

/-- V-DSP-6 as a state: the set bits end at column 63. -/
def drwEdgeState : State :=
  withV (withBytes { base with i := 0x300 } 0x300 [0xF0]) [(0, 60)]

theorem test_DrwDraws :
    drwEdgeState.base + (1 : Rows).toNat - 1 ≤ 0xFFF ∧
      (∀ r < (1 : Rows).toNat, ∀ c < 8,
        (drwEdgeState.mem.read (drwEdgeState.base + r)).getLsbD (7 - c) = true →
        drwEdgeState.v[0].toNat + c ≤ 63 ∧ drwEdgeState.v[1].toNat + r ≤ 31) := by decide
theorem test_DrwDraws_last_byte :
    { base with i := 0xFFF }.base + (1 : Rows).toNat - 1 ≤ 0xFFF ∧
      (∀ r < (1 : Rows).toNat, ∀ c < 8,
        ({ base with i := 0xFFF }.mem.read ({ base with i := 0xFFF }.base + r)).getLsbD (7 - c) ≠
          true) := by decide
theorem test_DrwTraps_each_clause :
    (1 ≤ (2 : Rows).toNat ∧ 0xFFF < drwDataState.base + (2 : Rows).toNat - 1) ∧
    (drwColumnState.base + (1 : Rows).toNat - 1 ≤ 0xFFF ∧
      (drwColumnState.mem.read (drwColumnState.base + 0)).getLsbD (7 - 3) = true ∧
      63 < drwColumnState.v[0].toNat + 3) ∧
    (drwRowState.base + (2 : Rows).toNat - 1 ≤ 0xFFF ∧
      (drwRowState.mem.read (drwRowState.base + 1)).getLsbD (7 - 0) = true ∧
      31 < drwRowState.v[1].toNat + 1) := by decide

/-- Two draws of the first row of glyph 0 at (0, 0), over the given framebuffer. -/
def draw1 (fb : Framebuffer) : State := after (exec (.drw 0 1 1) { base with fb := fb })
/-- The second draw. -/
def draw2 (fb : Framebuffer) : State := after (exec (.drw 0 1 1) (draw1 fb))

theorem test_DrawingTwiceRestores :
    exec (.drw 0 1 1) base = .next (draw1 base.fb) ∧ (draw1 base.fb).fault = none ∧
      exec (.drw 0 1 1) (draw1 base.fb) = .next (draw2 base.fb) ∧ (draw2 base.fb).fault = none ∧
      (draw1 base.fb).v[0] = base.v[0] ∧ (draw1 base.fb).v[1] = base.v[1] ∧
      (base.mem.read (base.base + 0)).getLsbD (7 - 0) = true ∧ base.fb.cell 0 0 = false :=
  ⟨rfl, by decide, by rfl, by decide, by decide, by decide, by decide, by decide⟩
-- Every cell under the sprite is 1 before the first draw: the counterexample of log entry 13.
theorem test_DrawingTwiceRestores_all_cells_set :
    let fb := cells [(0, 0), (1, 0), (2, 0), (3, 0)]
    exec (.drw 0 1 1) { base with fb := fb } = .next (draw1 fb) ∧ (draw1 fb).fault = none ∧
      exec (.drw 0 1 1) (draw1 fb) = .next (draw2 fb) ∧ (draw2 fb).fault = none ∧
      (draw1 fb).v[0] = base.v[0] ∧ (draw1 fb).v[1] = base.v[1] ∧ (draw2 fb).v[15] = 0 :=
  ⟨by rfl, by decide, by rfl, by decide, by decide, by decide, by decide⟩
theorem test_DrawingTwiceRestores_zero_sprite :
    let s := { base with i := 0x300 }
    ∀ r < (1 : Rows).toNat, ∀ c < 8, (s.mem.read (s.base + r)).getLsbD c = false := by decide
theorem test_SecondDrawCollidesIffTheSpriteHasASetBit_hypotheses :
    exec (.drw 0 1 1) base = .next (draw1 base.fb) ∧
      exec (.drw 0 1 1) (draw1 base.fb) = .next (draw2 base.fb) ∧ (draw2 base.fb).v[15] = 1 :=
  ⟨rfl, by rfl, by decide⟩

theorem test_KeySkips_each_clause :
    (withV base [(5, 0)]).v[5].toNat = (0 : Fin 16).val ∧
      (withV base [(5, 15)]).v[5].toNat = (15 : Fin 16).val ∧
      15 < (withV base [(5, 16)]).v[5].toNat := by decide
theorem test_DelayTimerMoves :
    (ready { base with dt := 0x3C } 0xF307).Executes (.ldXDt 3) ∧ dtState.Executes (.ldDtX 0) :=
  ⟨executes_of (by decide), executes_of (by decide)⟩
theorem test_SoundTimerMove : stState.Executes (.ldStX 1) := executes_of (by decide)
theorem test_WaitForKey_each_clause :
    ({ base with keys := 0x0090 }.keys.getLsbD 4 = true ∧
      ∀ j < 4, { base with keys := 0x0090 }.keys.getLsbD j = false) ∧
    ({ base with keys := 0x8000 }.keys.getLsbD 15 = true ∧
      ∀ j < 15, { base with keys := 0x8000 }.keys.getLsbD j = false) ∧
    base.keys = 0 := by decide

/-- The default FONT as the parameter of a later reset. -/
def fontVector : Vector Byte 80 := ⟨Config.font.toArray, by decide⟩

theorem test_ResetEndsWaitAndFault :
    let mem0 := (Vector.replicate 4096 (0 : Byte)).set 0x201 0xE0
    decode (wordOfBytes mem0[0x200] mem0[0x201]) = some .cls := by
  simp only [Vector.getElem_set, Vector.getElem_replicate]
  decide
theorem test_ResetEndsWaitAndFault_unknown :
    let mem0 := Vector.replicate 4096 (0xFF : Byte)
    decode (wordOfBytes mem0[0x200] mem0[0x201]) = none := by
  simp only [Vector.getElem_replicate]
  decide
theorem test_MemoryAfterReset : fontVector.toList = Config.font ∧ 80 ≤ (80 : Fin 4096).val :=
  ⟨rfl, by decide⟩
theorem test_LoadProgram_each_clause :
    Memory.wf base.mem ∧ (List.replicate 3584 (0xFF : Byte)).length ≤ 3584 ∧
      3584 < (List.replicate 3585 (0xFF : Byte)).length := by
  rw [List.length_replicate, List.length_replicate]
  decide

end Sys2Proof.Tests
end

section
/-! PROOFS. What an instruction that answers a next state has done, said once: the answer of each
instruction with a range check, the registers an instruction may write, and the dirty flag
(10_state.md R20, R22, R40). -/
namespace Sys2Proof.Machine

variable {s t : State} {i : Instr}

/-! ### The instructions that may raise a fault: which state they answer -/

/-- An answer chosen by a check is the one of the branch the check takes. -/
theorem ite_next_iff {c : Prop} [Decidable c] {a b : State} :
    (if c then Host.Outcome.next a else .next b : Host.Outcome State Fault Refusal) = .next t ↔
      (c ∧ t = a) ∨ (¬ c ∧ t = b) := by
  by_cases hc : c <;> simp [hc, eq_comm]

/-- RET pops, or underflows (41_flow.md R121). -/
theorem exec_ret_iff : exec .ret s = .next t ↔
    (∃ h : 0 < s.sp.val, t = s.pop.setPc (s.top h + 2)) ∨
      (¬ 0 < s.sp.val ∧ t = s.raise .stackUnderflow) := by
  by_cases h : 0 < s.sp.val <;> simp [exec, execRet, h, eq_comm]

/-- CALL pushes, or overflows (41_flow.md R123). -/
theorem exec_call_iff {nnn : Addr12} : exec (.call nnn) s = .next t ↔
    (∃ h : s.sp.val < 16, t = (s.push s.pc h).setPc (zext16 nnn)) ∨
      (¬ s.sp.val < 16 ∧ t = s.raise .stackOverflow) := by
  by_cases h : s.sp.val < 16 <;> simp [exec, execCall, h, eq_comm]

/-- DRW draws where its sprite is in memory and on the grid (45_display.md R212; 60_exceptions.md
R269). -/
theorem exec_drw_iff {x y : Reg} {n : Rows} : exec (.drw x y n) s = .next t ↔
    (s.reaches n.toNat = true ∧ (s.drawCells x y n).all onGrid = true ∧
      t = ((s.present (drawSprite s.fb (s.drawCells x y n)).1).setFlag
        (flagByte (drawSprite s.fb (s.drawCells x y n)).2)).advance) ∨
    (s.reaches n.toNat = false ∧ t = s.raise .dataOutOfRange) ∨
    (s.reaches n.toNat = true ∧ (s.drawCells x y n).all onGrid = false ∧
      t = s.raise .drawOutOfRange) := by
  change execDrw x y n s = .next t ↔ _
  unfold execDrw
  cases s.reaches n.toNat <;> cases (s.drawCells x y n).all onGrid <;> simp [eq_comm]

/-- SKP skips by its key, where V[X] names one (46_timers_keys.md R230). -/
theorem exec_skp_iff {x : Reg} : exec (.skp x) s = .next t ↔
    ((s.getV x).toNat > 15 ∧ t = s.raise .keyOutOfRange) ∨
      (¬ (s.getV x).toNat > 15 ∧ t = s.skipIf (s.keyDown (s.getV x).toNat)) :=
  ite_next_iff

/-- SKNP skips by its key, where V[X] names one (46_timers_keys.md R231). -/
theorem exec_sknp_iff {x : Reg} : exec (.sknp x) s = .next t ↔
    ((s.getV x).toNat > 15 ∧ t = s.raise .keyOutOfRange) ∨
      (¬ (s.getV x).toNat > 15 ∧ t = s.skipIf (!s.keyDown (s.getV x).toNat)) :=
  ite_next_iff

/-- LD B, Vx stores its digits where all three bytes are in memory (44_index_memory.md R196). -/
theorem exec_ldBX_iff {x : Reg} : exec (.ldBX x) s = .next t ↔
    (s.reaches 3 = true ∧
      t = (s.setMem (s.mem.writeBytes s.base (decimalDigits (s.getV x)))).advance) ∨
    (¬ s.reaches 3 = true ∧ t = s.raise .dataOutOfRange) :=
  ite_next_iff

/-- LD [I], Vx stores V0..VX where all its bytes are in memory (44_index_memory.md R198). -/
theorem exec_ldMemX_iff {x : Reg} : exec (.ldMemX x) s = .next t ↔
    (s.reaches (x.val + 1) = true ∧
      t = ((s.setMem (s.mem.writeBytes s.base (s.firstRegs x))).bumpI x).advance) ∨
    (¬ s.reaches (x.val + 1) = true ∧ t = s.raise .dataOutOfRange) :=
  ite_next_iff

/-- LD Vx, [I] loads V0..VX where all its bytes are in memory (44_index_memory.md R200). -/
theorem exec_ldXMem_iff {x : Reg} : exec (.ldXMem x) s = .next t ↔
    (s.reaches (x.val + 1) = true ∧
      t = ((s.setRegs (loadRegs s.mem s.base (x.val + 1) s.v)).bumpI x).advance) ∨
    (¬ s.reaches (x.val + 1) = true ∧ t = s.raise .dataOutOfRange) :=
  ite_next_iff

/-! ### General registers -/

/-- The registers an instruction may write: its destination X, VF where it has a flag, V0..VX for
FX65 (10_state.md R22; 43_alu.md; 44_index_memory.md R200). -/
def mayWriteReg : Instr → Reg → Prop
  | .ldImm x _, r | .addImm x _, r | .ldReg x _, r | .orReg x _, r | .andReg x _, r
  | .xorReg x _, r | .rnd x _, r | .ldXDt x, r | .ldXK x, r => r = x
  | .addReg x _, r | .subReg x _, r | .shr x _, r | .subnReg x _, r | .shl x _, r => r = x ∨ r = 15
  | .drw _ _ _, r | .addIX _, r => r = 15
  | .ldXMem x, r => r ≤ x
  | _, _ => False

/-- An instruction whose only register is its destination leaves the others. -/
theorem toReg_keeps_reg {x r : Reg} {a : Byte} (h : toReg x a s = .next t) (hr : r ≠ x) :
    t.v[r] = s.v[r] := by
  cases h
  exact s.getElem_setV_ne x r a hr

/-- An instruction with a result and a flag leaves every register but its destination and VF. -/
theorem toRegFlag_keeps_reg {x r : Reg} {a f : Byte} (h : toRegFlag x a f s = .next t)
    (hr : ¬ (r = x ∨ r = 15)) : t.v[r] = s.v[r] := by
  cases h
  exact s.getElem_setVFlag_ne x r a f (fun e => hr (.inl e)) fun e => hr (.inr e)

/-- Taking a key writes one register (46_timers_keys.md R236). -/
theorem State.takeKey_keeps_reg (s : State) {x r : Reg} (hr : r ≠ x) :
    (s.takeKey x).v[r] = s.v[r] := by
  rw [State.takeKey_v]
  split
  · exact s.getElem_setV_ne x r _ hr
  · rfl

/-- An instruction leaves every register it may not write, whether it completes or raises a fault. -/
theorem exec_keeps_reg (h : exec i s = .next t) {r : Reg} (hr : ¬ mayWriteReg i r) :
    t.v[r] = s.v[r] := by
  cases i with
  | ldImm | addImm | ldReg | orReg | andReg | xorReg | rnd | ldXDt => exact toReg_keeps_reg h hr
  | addReg | subReg | shr | subnReg | shl => exact toRegFlag_keeps_reg h hr
  | ldXK x =>
    cases h
    exact s.takeKey_keeps_reg hr
  | addIX =>
    cases h
    exact State.getElem_setV_ne _ 15 r _ hr
  | drw =>
    obtain ⟨-, -, rfl⟩ | ⟨-, rfl⟩ | ⟨-, -, rfl⟩ := exec_drw_iff.1 h
    · exact State.getElem_setV_ne _ 15 r _ hr
    · rfl
    · rfl
  | ldXMem x =>
    obtain ⟨-, rfl⟩ | ⟨-, rfl⟩ := exec_ldXMem_iff.1 h
    · have hx : ¬ r.val < x.val + 1 := fun hlt => hr (Nat.lt_succ_iff.1 hlt)
      exact (getElem_loadRegs ..).trans (if_neg hx)
    · rfl
  | ret => obtain ⟨-, rfl⟩ | ⟨-, rfl⟩ := exec_ret_iff.1 h <;> rfl
  | call => obtain ⟨-, rfl⟩ | ⟨-, rfl⟩ := exec_call_iff.1 h <;> rfl
  | skp => obtain ⟨-, rfl⟩ | ⟨-, rfl⟩ := exec_skp_iff.1 h <;> rfl
  | sknp => obtain ⟨-, rfl⟩ | ⟨-, rfl⟩ := exec_sknp_iff.1 h <;> rfl
  | ldBX => obtain ⟨-, rfl⟩ | ⟨-, rfl⟩ := exec_ldBX_iff.1 h <;> rfl
  | ldMemX => obtain ⟨-, rfl⟩ | ⟨-, rfl⟩ := exec_ldMemX_iff.1 h <;> rfl
  | _ =>
    cases h
    rfl

/-! ### The flag register -/

/-- A flag is 0 or 1 (10_state.md R23). -/
theorem flagByte_eq_zero_or_one (c : Bool) : flagByte c = 0 ∨ flagByte c = 1 := by
  cases c
  · exact .inl rfl
  · exact .inr rfl

/-- A flag written last is what VF holds. -/
theorem State.setFlag_vf (s : State) (b : Byte) : (s.setFlag b).v[(15 : Reg)] = b :=
  (s.getV_setV 15 15 b).trans (if_pos rfl)

/-- An instruction with a result and a flag leaves the flag in VF, its destination being VF or not
(10_state.md R23). -/
theorem toRegFlag_vf_eq_zero_or_one {x : Reg} {a : Byte} {c : Bool}
    (h : toRegFlag x a (flagByte c) s = .next t) : t.v[(15 : Reg)] = 0 ∨ t.v[(15 : Reg)] = 1 := by
  cases h
  exact (State.setFlag_vf (s.setV x a) (flagByte c)).symm ▸ flagByte_eq_zero_or_one c

/-- DRW that completes leaves its collision flag in VF (45_display.md R212). -/
theorem exec_drw_vf_eq_zero_or_one {x y : Reg} {n : Rows} (h : exec (.drw x y n) s = .next t)
    (ht : t.fault = none) : t.v[(15 : Reg)] = 0 ∨ t.v[(15 : Reg)] = 1 := by
  obtain ⟨-, -, rfl⟩ | ⟨-, rfl⟩ | ⟨-, -, rfl⟩ := exec_drw_iff.1 h
  · exact (State.setFlag_vf _ _).symm ▸ flagByte_eq_zero_or_one _
  · exact nomatch ht
  · exact nomatch ht

/-- Settles O20: a flag instruction writes VF last, and any other instruction may write VF only
through its destination or the range of FX65. -/
theorem onlyTheseInstructionsWriteVF : Obligations.OnlyTheseInstructionsWriteVF := by
  intro i s t h _ ht
  cases i with
  | addReg | subReg | shr | subnReg | shl => exact toRegFlag_vf_eq_zero_or_one h
  | drw => exact exec_drw_vf_eq_zero_or_one h ht
  | addIX =>
    cases h
    exact (State.setFlag_vf _ _).symm ▸ flagByte_eq_zero_or_one _
  | ldImm | addImm | ldReg | orReg | andReg | xorReg | rnd | ldXDt | ldXK =>
    exact fun hx => exec_keeps_reg h (r := 15) hx.symm
  | ldXMem x =>
    exact fun hx => exec_keeps_reg h (r := 15) fun hle => hx (le_antisymm (Fin.le_last x) hle)
  | _ => exact exec_keeps_reg h (r := 15) not_false

/-! ### The dirty flag -/

/-- The drawing instructions are 00E0 and DXYN. -/
theorem drawsFrame_eq_false (hcls : i ≠ .cls) (hdrw : ∀ x y n, i ≠ .drw x y n) :
    drawsFrame i = false := by
  cases i with
  | cls => exact absurd rfl hcls
  | drw x y n => exact absurd rfl (hdrw x y n)
  | _ => rfl

/-- An instruction that does not draw leaves the dirty flag (10_state.md R40). -/
theorem exec_keeps_dirty (h : exec i s = .next t) (hd : drawsFrame i = false) :
    t.dirty = s.dirty := by
  cases i with
  | cls | drw => exact nomatch hd
  | ret => obtain ⟨-, rfl⟩ | ⟨-, rfl⟩ := exec_ret_iff.1 h <;> rfl
  | call => obtain ⟨-, rfl⟩ | ⟨-, rfl⟩ := exec_call_iff.1 h <;> rfl
  | skp => obtain ⟨-, rfl⟩ | ⟨-, rfl⟩ := exec_skp_iff.1 h <;> rfl
  | sknp => obtain ⟨-, rfl⟩ | ⟨-, rfl⟩ := exec_sknp_iff.1 h <;> rfl
  | ldBX => obtain ⟨-, rfl⟩ | ⟨-, rfl⟩ := exec_ldBX_iff.1 h <;> rfl
  | ldMemX => obtain ⟨-, rfl⟩ | ⟨-, rfl⟩ := exec_ldMemX_iff.1 h <;> rfl
  | ldXMem => obtain ⟨-, rfl⟩ | ⟨-, rfl⟩ := exec_ldXMem_iff.1 h <;> rfl
  | _ =>
    cases h
    rfl

/-- A drawing instruction that completes sets the dirty flag, "whether or not a cell changed"
(10_state.md R40). -/
theorem exec_sets_dirty (h : exec i s = .next t) (hd : drawsFrame i = true)
    (ht : t.fault = none) : t.dirty = true := by
  cases i with
  | cls =>
    cases h
    rfl
  | drw =>
    obtain ⟨-, -, rfl⟩ | ⟨-, rfl⟩ | ⟨-, -, rfl⟩ := exec_drw_iff.1 h
    · rfl
    · exact nomatch ht
    · exact nomatch ht
  | _ => exact nomatch hd

/-- A step never clears the dirty flag: every phase but the instruction leaves it. -/
theorem step_keeps_dirty_set (h : step s = .next t) (hs : s.dirty = true) : t.dirty = true := by
  obtain ⟨_, _, rfl⟩ | ⟨_, _, _, rfl⟩ | ⟨_, _, _, rfl⟩ | ⟨_, _, _, _, rfl⟩ | ⟨_, _, _, _, _, _, rfl⟩ |
    ⟨i, u, _, he, hu, rfl⟩ := step_cases h
  · exact hs
  · exact hs
  · exact hs
  · exact hs
  · exact hs
  · change u.dirty = true
    cases hd : drawsFrame i with
    | true => exact exec_sets_dirty he hd hu
    | false => exact (exec_keeps_dirty he hd).trans hs

/-- A check that does not read the dirty flag, between two answers that do not, does not. -/
theorem ite_next_ignores_dirty {c : Prop} [Decidable c] {a a' b b' : State}
    (ha : a' = { a with dirty := a'.dirty }) (hb : b' = { b with dirty := b'.dirty })
    (h : (if c then Host.Outcome.next a else .next b : Host.Outcome State Fault Refusal) = .next t) :
    ∃ u, (if c then Host.Outcome.next a' else .next b' : Host.Outcome State Fault Refusal) = .next u ∧
      u = { t with dirty := u.dirty } := by
  obtain ⟨hc, rfl⟩ | ⟨hc, rfl⟩ := ite_next_iff.1 h
  · exact ⟨a', if_pos hc, ha⟩
  · exact ⟨b', if_neg hc, hb⟩

/-- No instruction reads the dirty flag: whether it completes and what it leaves in every other field
do not depend on it (10_state.md R40). -/
theorem exec_ignores_dirty (b : Bool) (h : exec i s = .next t) :
    ∃ u, exec i { s with dirty := b } = .next u ∧ u = { t with dirty := u.dirty } := by
  cases i with
  | ret =>
    obtain ⟨hc, rfl⟩ | ⟨hc, rfl⟩ := exec_ret_iff.1 h
    · exact ⟨_, exec_ret_iff.2 (.inl ⟨hc, rfl⟩), rfl⟩
    · exact ⟨_, exec_ret_iff.2 (.inr ⟨hc, rfl⟩), rfl⟩
  | call =>
    obtain ⟨hc, rfl⟩ | ⟨hc, rfl⟩ := exec_call_iff.1 h
    · exact ⟨_, exec_call_iff.2 (.inl ⟨hc, rfl⟩), rfl⟩
    · exact ⟨_, exec_call_iff.2 (.inr ⟨hc, rfl⟩), rfl⟩
  | drw =>
    obtain ⟨hc, hg, rfl⟩ | ⟨hc, rfl⟩ | ⟨hc, hg, rfl⟩ := exec_drw_iff.1 h
    · exact ⟨_, exec_drw_iff.2 (.inl ⟨hc, hg, rfl⟩), rfl⟩
    · exact ⟨_, exec_drw_iff.2 (.inr (.inl ⟨hc, rfl⟩)), rfl⟩
    · exact ⟨_, exec_drw_iff.2 (.inr (.inr ⟨hc, hg, rfl⟩)), rfl⟩
  | skp | sknp | ldBX | ldMemX | ldXMem => exact ite_next_ignores_dirty rfl rfl h
  | _ =>
    cases h
    exact ⟨_, rfl, rfl⟩

/-- Settles O22: only the drawing instructions touch the dirty flag, and only by setting it. -/
theorem dirtyIsSetByDrawingAndClearedByTheHost :
    Obligations.DirtyIsSetByDrawingAndClearedByTheHost :=
  ⟨fun _ _ _ ht h => exec_sets_dirty h rfl ht,
    fun _ _ _ _ _ _ ht h => exec_sets_dirty h rfl ht,
    fun _ _ => step_keeps_dirty_set,
    fun _ _ _ h hcls hdrw => exec_keeps_dirty h (drawsFrame_eq_false hcls hdrw),
    fun _ _ _ b h => exec_ignores_dirty b h,
    fun _ => rfl⟩

/-! ### Reset -/

/-- A later reset is the power-on state but for memory and the host's inputs
(70_reset_and_hazards.md R300, R301). -/
theorem State.hostReset_eq (font : Vector Byte 80) (mem0 : Vector Byte 4096) (s : State) :
    s.hostReset font mem0 = { State.reset with
      mem := (s.hostReset font mem0).mem, inputs := s.inputs, inputTime := s.inputTime } := rfl

/-- Settles O56: both resets hold the power-on value in every field the statement names. -/
theorem resetValues : Obligations.ResetValues := by
  intro font mem0 s r hr
  have hreset : ∃ m l k, r = { State.reset with mem := m, inputs := l, inputTime := k } := by
    obtain rfl | rfl : r = State.reset ∨ r = s.hostReset font mem0 := by simpa using hr
    · exact ⟨_, _, _, rfl⟩
    · exact ⟨_, _, _, s.hostReset_eq font mem0⟩
  obtain ⟨m, l, k, rfl⟩ := hreset
  exact ⟨fun j => Vector.getElem_replicate j.isLt, rfl, rfl, rfl,
    fun j => Vector.getElem_replicate j.isLt, rfl, rfl, rfl,
    fun a _ b _ => Framebuffer.cell_clear a b, rfl⟩

end Sys2Proof.Machine
end

section
/-! PROOFS. Fetch: the word it reads and the fault it raises (20_memory.md R55). -/
namespace Sys2Proof.Machine

/-- Fetch is in range where pc + 1 is an address (20_memory.md R55). -/
theorem State.canFetch_eq_false_iff (s : State) : s.canFetch = false ↔ 0xFFF < s.pc.toNat + 1 := by
  rw [State.canFetch, decide_eq_false_iff_not]
  omega

/-- The word fetched has the byte at pc as its high byte (20_memory.md R55). -/
theorem State.toNat_fetchWord (s : State) :
    s.fetchWord.toNat =
      256 * (s.mem.read s.pc.toNat).toNat + (s.mem.read (s.pc.toNat + 1)).toNat := by
  rw [State.fetchWord, toNat_wordOfBytes, Nat.mul_comm]

/-- A step that cannot fetch raises the fault in the state it began in (40_engine.md R101, R110). -/
theorem step_no_fetch {s : State} (hf : s.fault = none) (hw : s.wait = none)
    (hc : s.canFetch = false) : step s = .next (s.raise .fetchOutOfRange) :=
  stepWith_of_engine (engine_no_fetch _ s hf hw hc)

/-- Settles O6: the word is the two bytes' sum, and a pc out of range takes the step's fault branch. -/
theorem fetchIsBigEndian : Obligations.FetchIsBigEndian := by
  intro s
  refine ⟨s.toNat_fetchWord, fun hf hw hpc => ?_⟩
  exact step_no_fetch hf hw (s.canFetch_eq_false_iff.2 hpc)

end Sys2Proof.Machine
end

section
/-! PROOFS. The timers: what an instruction leaves in them, and the tick that follows it in every
non-faulting step (40_engine.md R108). -/
namespace Sys2Proof.Machine

variable {s t : State} {i : Instr}

/-! ### The timers an instruction leaves -/

/-- DT after an instruction and before the tick: only FX15 writes it (46_timers_keys.md R233). -/
def dtAfter (s : State) : Instr → Byte
  | .ldDtX x => s.v[x]
  | _ => s.dt

/-- ST after an instruction and before the tick: only FX18 writes it (46_timers_keys.md R234). -/
def stAfter (s : State) : Instr → Byte
  | .ldStX x => s.v[x]
  | _ => s.st

theorem dtAfter_of_ne_ldDtX (hi : ∀ x, i ≠ .ldDtX x) : dtAfter s i = s.dt := by
  cases i with
  | ldDtX x => exact absurd rfl (hi x)
  | _ => rfl

theorem stAfter_of_ne_ldStX (hi : ∀ x, i ≠ .ldStX x) : stAfter s i = s.st := by
  cases i with
  | ldStX x => exact absurd rfl (hi x)
  | _ => rfl

/-- An instruction leaves in the timers what FX15 and FX18 move there and nothing else, whether it
completes or raises a fault. -/
theorem exec_timers (h : exec i s = .next t) : t.dt = dtAfter s i ∧ t.st = stAfter s i := by
  cases i with
  | ret => obtain ⟨-, rfl⟩ | ⟨-, rfl⟩ := exec_ret_iff.1 h <;> exact ⟨rfl, rfl⟩
  | call => obtain ⟨-, rfl⟩ | ⟨-, rfl⟩ := exec_call_iff.1 h <;> exact ⟨rfl, rfl⟩
  | drw => obtain ⟨-, -, rfl⟩ | ⟨-, rfl⟩ | ⟨-, -, rfl⟩ := exec_drw_iff.1 h <;> exact ⟨rfl, rfl⟩
  | skp => obtain ⟨-, rfl⟩ | ⟨-, rfl⟩ := exec_skp_iff.1 h <;> exact ⟨rfl, rfl⟩
  | sknp => obtain ⟨-, rfl⟩ | ⟨-, rfl⟩ := exec_sknp_iff.1 h <;> exact ⟨rfl, rfl⟩
  | ldBX => obtain ⟨-, rfl⟩ | ⟨-, rfl⟩ := exec_ldBX_iff.1 h <;> exact ⟨rfl, rfl⟩
  | ldMemX => obtain ⟨-, rfl⟩ | ⟨-, rfl⟩ := exec_ldMemX_iff.1 h <;> exact ⟨rfl, rfl⟩
  | ldXMem => obtain ⟨-, rfl⟩ | ⟨-, rfl⟩ := exec_ldXMem_iff.1 h <;> exact ⟨rfl, rfl⟩
  | _ =>
    cases h
    exact ⟨rfl, rfl⟩

/-! ### A step that ends in a fault, and one that does not -/

/-- A step that ends in a fault state, raised in it or before it, changes nothing but the fault
(40_engine.md R110; 60_exceptions.md R263). -/
theorem step_fault_eq (h : step s = .next t) (ht : t.fault ≠ none) :
    t = { s with fault := t.fault } := by
  obtain ⟨_, _, rfl⟩ | ⟨_, hf, _, rfl⟩ | ⟨_, _, _, rfl⟩ | ⟨hf, _, _, _, rfl⟩ |
    ⟨_, _, _, _, _, _, rfl⟩ | ⟨_, _, _, _, hu, rfl⟩ := step_cases h
  · rfl
  · exact absurd hf ht
  · rfl
  · exact absurd hf ht
  · rfl
  · exact absurd hu ht

/-- A non-faulting step ends in a tick: of a state with the timers it began with, where it executed
no instruction, and otherwise of what its instruction left (40_engine.md R108). -/
theorem step_ends_in_tick (h : step s = .next t) (ht : t.fault = none) :
    ∃ u, t = u.tick ∧
      (((∀ i, ¬ s.Executes i) ∧ u.dt = s.dt ∧ u.st = s.st) ∨
        ∃ i, s.Executes i ∧ exec i s.sample = .next u) := by
  obtain ⟨_, hf, rfl⟩ | ⟨_, _, hw, rfl⟩ | ⟨_, _, _, rfl⟩ | ⟨_, _, _, hd, rfl⟩ |
    ⟨_, _, _, _, _, _, rfl⟩ | ⟨i, u, hi, he, _, rfl⟩ := step_cases h
  · exact nomatch hf.symm.trans ht
  · exact ⟨_, rfl, .inl ⟨fun _ ⟨_, hw', _, _⟩ => (nomatch hw.symm.trans hw'), rfl, rfl⟩⟩
  · exact nomatch ht
  · exact ⟨_, rfl, .inl ⟨fun _ ⟨_, _, _, hd'⟩ => (nomatch hd.symm.trans hd'), rfl, rfl⟩⟩
  · exact nomatch ht
  · exact ⟨u, rfl, .inr ⟨i, hi, he⟩⟩

/-- A step that executes an instruction and does not fault leaves each timer one tick below what the
instruction left in it. -/
theorem tick_timers_of_exec {u : State} (he : exec i s.sample = .next u) :
    u.tick.dt.toNat = (dtAfter s i).toNat - 1 ∧ u.tick.st.toNat = (stAfter s i).toNat - 1 := by
  obtain ⟨hdt, hst⟩ := exec_timers he
  have hdt' : dtAfter s.sample i = dtAfter s i := by cases i <;> rfl
  have hst' : stAfter s.sample i = stAfter s i := by cases i <;> rfl
  simp only [State.tick_dt, State.tick_st, toNat_tickTimer, hdt, hst, hdt', hst', and_self]

/-- FX07 leaves DT in V[X], as it stands when the instruction starts (46_timers_keys.md R232). -/
theorem exec_ldXDt_reg {x : Reg} (h : exec (.ldXDt x) s = .next t) : t.v[x] = s.dt := by
  cases h
  exact (s.getV_setV x x s.dt).trans (if_pos rfl)

/-- Settles O10: a non-faulting step ends in a tick of what its instruction left in the timers, and
a faulting one keeps everything but the fault. -/
theorem timersTickOncePerStep : Obligations.TimersTickOncePerStep := by
  intro s t h
  refine ⟨fun ht => ?_, fun ht => ?_⟩
  · rw [step_fault_eq h ht]
    exact ⟨rfl, rfl⟩
  obtain ⟨u, rfl, ⟨hno, hdt, hst⟩ | ⟨i, hi, he⟩⟩ := step_ends_in_tick h ht
  · refine ⟨fun _ hx => absurd hx (hno _), fun _ hx => absurd hx (hno _),
      fun _ hx => absurd hx (hno _), fun _ => ?_, fun _ => ?_⟩
    · rw [State.tick_dt, toNat_tickTimer, hdt]
    · rw [State.tick_st, toNat_tickTimer, hst]
  · obtain ⟨hdt, hst⟩ := tick_timers_of_exec he
    refine ⟨fun x hx => ?_, fun x hx => ?_, fun x hx => ?_, fun hne => ?_, fun hne => ?_⟩
    · cases executes_unique hi hx
      exact hdt
    · cases executes_unique hi hx
      exact hst
    · cases executes_unique hi hx
      have hv : u.v[x] = s.sample.dt := exec_ldXDt_reg he
      exact hv
    · rwa [dtAfter_of_ne_ldDtX fun x hx => hne x (hx ▸ hi)] at hdt
    · rwa [stAfter_of_ne_ldStX fun x hx => hne x (hx ▸ hi)] at hst

end Sys2Proof.Machine
end

section
/-! PROOFS. The jumps: where JP and JP V0 go, and the fetch after a jump past the top of memory
(41_flow.md R122, R124). -/
namespace Sys2Proof.Machine

theorem toNat_zext16 (nnn : Addr12) : (zext16 nnn).toNat = nnn.toNat :=
  BitVec.toNat_setWidth_of_le (by decide)

/-- NNN + V0 is at most 0xFFF + 0xFF. -/
theorem addr_add_byte_le (nnn : Addr12) (b : Byte) : nnn.toNat + b.toNat ≤ 0x10FE := by
  have hnnn := nnn.isLt
  have hb := b.isLt
  omega

/-- The target of JP V0 is the exact sum: 16 bits hold it (41_flow.md R124). -/
theorem toNat_zext16_add_zeroExtend (nnn : Addr12) (b : Byte) :
    (zext16 nnn + b.zeroExtend 16).toNat = nnn.toNat + b.toNat := by
  have hle := addr_add_byte_le nnn b
  have hb : (b.zeroExtend 16).toNat = b.toNat := BitVec.toNat_setWidth_of_le (by decide)
  rw [BitVec.toNat_add, toNat_zext16, hb]
  exact Nat.mod_eq_of_lt (by omega)

/-- A jump past the last address a fetch can start at makes the next step fault (40_engine.md R101). -/
theorem step_setPc_above_top {s : State} {a : Word} (hf : s.fault = none) (hw : s.wait = none)
    (ha : 0xFFE < a.toNat) : step (s.setPc a) = .next ((s.setPc a).raise .fetchOutOfRange) :=
  step_no_fetch hf hw ((s.setPc a).canFetch_eq_false_iff.2 (Nat.succ_lt_succ ha))

/-- Settles O27: each jump answers `setPc` of its target, whose value as a number is exact. -/
theorem jumpsLand : Obligations.JumpsLand := by
  intro nnn s
  have hsum := toNat_zext16_add_zeroExtend nnn s.v[0]
  exact ⟨⟨s.setPc (zext16 nnn), rfl, rfl, toNat_zext16 nnn, step_setPc_above_top⟩,
    ⟨s.setPc (zext16 nnn + s.v[0].zeroExtend 16), rfl, rfl, hsum,
      hsum.trans_le (addr_add_byte_le nnn s.v[0]), step_setPc_above_top⟩⟩

end Sys2Proof.Machine
end

section
/-! PROOFS. The skips on registers: where `skipIf` leaves pc when its condition compares two bytes
(42_skip.md R140 to R142). -/
namespace Sys2Proof.Machine

/-- A skip on equality moves pc by 4 exactly where the bytes are the same number (42_skip.md R140,
R142). -/
theorem State.skipIf_beq (s : State) (a b : Byte) :
    s.skipIf (a == b) = { s with pc := if a.toNat = b.toNat then s.pc + 4 else s.pc + 2 } := by
  by_cases h : a = b
  · rw [beq_iff_eq.2 h, if_pos (congrArg BitVec.toNat h)]
    rfl
  · rw [beq_false_of_ne h, if_neg (BitVec.toNat_ne.1 h)]
    rfl

/-- A skip on difference moves pc by 2 exactly where the bytes are the same number (42_skip.md
R141). -/
theorem State.skipIf_bne (s : State) (a b : Byte) :
    s.skipIf (a != b) = { s with pc := if a.toNat = b.toNat then s.pc + 2 else s.pc + 4 } := by
  by_cases h : a = b
  · rw [bne_eq_false_iff_eq.2 h, if_pos (congrArg BitVec.toNat h)]
    rfl
  · rw [bne_iff_ne.2 h, if_neg (BitVec.toNat_ne.1 h)]
    rfl

/-- Settles O31: each of the three answers `skipIf` of a comparison of two bytes. -/
theorem registerSkips : Obligations.RegisterSkips := by
  intro s
  exact ⟨fun x nn => congrArg Host.Outcome.next (s.skipIf_beq s.v[x] nn),
    fun x nn => congrArg Host.Outcome.next (s.skipIf_bne s.v[x] nn),
    fun x y => congrArg Host.Outcome.next (s.skipIf_beq s.v[x] s.v[y])⟩

end Sys2Proof.Machine
end

section
/-! PROOFS. The ALU instructions: what `toReg` and `toRegFlag` answer, and each result and each flag
as a number or bit by bit (43_alu.md R160 to R167, R169, R170). -/
namespace Sys2Proof.Machine

/-! ### The two shapes of an answer -/

/-- A register written is the byte it got (10_state.md R20). -/
theorem State.getElem_setV_self (s : State) (x : Reg) (b : Byte) : (s.setV x b).v[x] = b :=
  (s.getV_setV x x b).trans (if_pos rfl)

/-- What an instruction whose only results are V[x] and pc + 2 writes and leaves. -/
theorem toReg_answers (s : State) (x : Reg) (a : Byte) :
    ∃ t, toReg x a s = .next t ∧ t = { s with v := t.v, pc := s.pc + 2 } ∧
      t.v[x] = a ∧ ∀ r : Reg, r ≠ x → t.v[r] = s.v[r] :=
  ⟨(s.setV x a).advance, rfl, rfl, s.getElem_setV_self x a, fun _ => toReg_keeps_reg rfl⟩

/-- `toReg_answers` with the result said bit by bit. -/
theorem toReg_answers_bits (s : State) (x : Reg) {a : Byte} {bit : Nat → Bool}
    (ha : ∀ k < 8, a.getLsbD k = bit k) :
    ∃ t, toReg x a s = .next t ∧ t = { s with v := t.v, pc := s.pc + 2 } ∧
      (∀ k < 8, t.v[x].getLsbD k = bit k) ∧ ∀ r : Reg, r ≠ x → t.v[r] = s.v[r] := by
  obtain ⟨t, hexec, hframe, hx, hregs⟩ := toReg_answers s x a
  exact ⟨t, hexec, hframe, hx ▸ ha, hregs⟩

/-- What an instruction with a result and a flag writes and leaves, as numbers: the flag is written
last, so it stands where x = F, and the result where x is another register (10_state.md R23; D7). -/
theorem toRegFlag_answers (s : State) (x : Reg) {a f : Byte} {flag result : Nat}
    (hf : f.toNat = flag) (ha : a.toNat = result) :
    ∃ t, toRegFlag x a f s = .next t ∧ t = { s with v := t.v, pc := s.pc + 2 } ∧
      t.v[15].toNat = flag ∧ (x ≠ 15 → t.v[x].toNat = result) ∧
      ∀ r : Reg, r ≠ x → r ≠ 15 → t.v[r] = s.v[r] := by
  have hvf := (s.setV x a).setFlag_vf f
  have hres : x ≠ 15 → (s.setVFlag x a f).v[x] = a := fun hx =>
    (State.getElem_setV_ne _ 15 x f hx).trans (s.getElem_setV_self x a)
  exact ⟨(s.setVFlag x a f).advance, rfl, rfl, (congrArg BitVec.toNat hvf).trans hf,
    fun hx => (congrArg BitVec.toNat (hres hx)).trans ha,
    fun r hrx hrf => s.getElem_setVFlag_ne x r a f hrx hrf⟩

/-! ### Results as numbers (43_alu.md R172) -/

theorem toNat_addMod (a b : Byte) : (addMod a b).toNat = (a.toNat + b.toNat) % 256 :=
  BitVec.toNat_ofNat _ _

theorem toNat_subMod (a b : Byte) : (subMod a b).toNat = (a.toNat + 256 - b.toNat) % 256 :=
  BitVec.toNat_ofNat _ _

/-- A shift left by one bit doubles modulo 256 (43_alu.md R170). -/
theorem toNat_shiftLeft_one (a : Byte) : (a <<< 1).toNat = a.toNat * 2 % 256 := by
  rw [BitVec.toNat_shiftLeft, Nat.shiftLeft_eq]

/-! ### Flags as numbers -/

@[simp] theorem toNat_flagByte (c : Bool) : (flagByte c).toNat = c.toNat := by
  cases c
  · rfl
  · rfl

/-- The carry is 1 exactly where the exact sum exceeds 255 (43_alu.md R166). -/
theorem toNat_carryFlag (a b : Byte) :
    (carryFlag a b).toNat = if 255 < a.toNat + b.toNat then 1 else 0 := by
  rw [carryFlag, toNat_flagByte]
  by_cases h : 255 < a.toNat + b.toNat <;> simp [h]

/-- NOT borrow is 0 exactly where the second operand is the larger one (43_alu.md R167, R169). -/
theorem toNat_notBorrowFlag (a b : Byte) :
    (notBorrowFlag a b).toNat = if a.toNat < b.toNat then 0 else 1 := by
  rw [notBorrowFlag, toNat_flagByte]
  by_cases h : a.toNat < b.toNat <;> simp [h]

/-- The bit a shift left drops is the top half of the byte's range (43_alu.md R170). -/
theorem toNat_shlFlag (a : Byte) : (shlFlag a).toNat = a.toNat / 128 := by
  have hbit : (shlFlag a).toNat = a.toNat / 2 ^ 7 % 2 :=
    (toNat_flagByte _).trans (Nat.toNat_testBit a.toNat 7)
  have hlt := a.isLt
  omega

/-! ### The obligations -/

/-- Settles O36: the sum and its carry, as numbers. -/
theorem addWithCarry : Obligations.AddWithCarry := by
  intro s x y
  exact toRegFlag_answers s x (toNat_carryFlag _ _) (toNat_addMod _ _)

/-- Settles O37: one difference and one flag, for SUBN with the operands exchanged. -/
theorem subtractWithNotBorrow : Obligations.SubtractWithNotBorrow := by
  intro s x y
  exact ⟨toRegFlag_answers s x (toNat_notBorrowFlag _ _) (toNat_subMod _ _),
    toRegFlag_answers s x (toNat_notBorrowFlag _ _) (toNat_subMod _ _)⟩

/-- Settles O39: the doubled byte and the bit shifted out, as numbers. -/
theorem shiftLeft : Obligations.ShiftLeft := by
  intro s x _
  exact toRegFlag_answers s x (toNat_shlFlag _) (toNat_shiftLeft_one _)

/-- Settles O34: each of the three answers `toReg` of its result. -/
theorem loadsAndAddImmediate : Obligations.LoadsAndAddImmediate := by
  intro s x
  refine ⟨toReg_answers s x, fun nn => ?_, fun y => toReg_answers s x s.v[y]⟩
  obtain ⟨t, hexec, hframe, hx, hregs⟩ := toReg_answers s x (addMod s.v[x] nn)
  exact ⟨t, hexec, hframe, hx ▸ toNat_addMod s.v[x] nn, hregs⟩

/-- Settles O35: each of the three answers `toReg` of a byte whose bits are known. -/
theorem bitwiseOperations : Obligations.BitwiseOperations := by
  intro s x y
  exact ⟨toReg_answers_bits s x fun _ _ => BitVec.getLsbD_or,
    toReg_answers_bits s x fun _ _ => BitVec.getLsbD_and,
    toReg_answers_bits s x fun _ _ => BitVec.getLsbD_xor⟩

end Sys2Proof.Machine
end

section
/-! PROOFS. The loads of I: the offset FX29 computes, and what ANNN and FX29 leave
(44_index_memory.md R190, R194). -/
namespace Sys2Proof.Machine

/-- A byte times 5 is at most 255 * 5 (44_index_memory.md R194). -/
theorem byte_mul_five_le (b : Byte) : b.toNat * 5 ≤ 0x4FB :=
  Nat.mul_le_mul_right 5 (Nat.le_of_lt_succ b.isLt)

/-- The product FX29 stores in I is exact: no byte times 5 wraps (44_index_memory.md R194). -/
theorem toNat_ofNat_byte_mul_five (b : Byte) :
    (BitVec.ofNat 16 (b.toNat * 5)).toNat = b.toNat * 5 :=
  (BitVec.toNat_ofNat _ _).trans (Nat.mod_eq_of_lt ((byte_mul_five_le b).trans_lt (by decide)))

/-- Settles O41: each load answers `setI` and then `advance`, so I's value as a number is all that
is left to say. -/
theorem indexLoads : Obligations.IndexLoads := by
  intro s
  refine ⟨fun nnn => ⟨(s.setI (zext16 nnn)).advance, rfl, rfl, toNat_zext16 nnn⟩, fun x => ?_⟩
  have hi : (BitVec.ofNat 16 ((s.getV x).toNat * 5)).toNat = s.v[x].toNat * 5 :=
    toNat_ofNat_byte_mul_five (s.getV x)
  exact ⟨(s.setI (BitVec.ofNat 16 ((s.getV x).toNat * 5))).advance, rfl, rfl, hi,
    hi.trans_le (byte_mul_five_le s.v[x])⟩

end Sys2Proof.Machine
end

section
/-! PROOFS. 00E0: the cleared framebuffer it presents (45_display.md R210). -/
namespace Sys2Proof.Machine

/-- Settles O47: 00E0 answers `present` of the clear framebuffer and then `advance`, whatever the
framebuffer was, so only its cells are left to say. -/
theorem clsClears : Obligations.ClsClears := by
  intro s
  exact ⟨(s.present Framebuffer.clear).advance, rfl, rfl, fun a _ b _ => Framebuffer.cell_clear a b⟩

end Sys2Proof.Machine
end

section
/-! PROOFS. FX07 and FX15: what each moves, and the tick that the step makes after it
(46_timers_keys.md R232, R233). -/
namespace Sys2Proof.Machine

/-- The step that executes FX07 reads DT before its own tick takes DT down by one
(46_timers_keys.md R232). -/
theorem step_ldXDt {s : State} {x : Reg} (h : s.Executes (.ldXDt x)) :
    ∃ t, step s = .next t ∧ t.v[x] = s.dt ∧ t.dt.toNat = s.dt.toNat - 1 := by
  obtain ⟨u, hexec, hframe, hx, -⟩ :
      ∃ u, exec (.ldXDt x) s.sample = .next u ∧ _ := toReg_answers s.sample x s.dt
  have hfault : u.fault = none := (congrArg State.fault hframe).trans h.1
  exact ⟨u.tick, step_of_executes h hexec hfault, hx, (tick_timers_of_exec hexec).1⟩

/-- The step that executes FX15 ticks the DT it has just written (46_timers_keys.md R233). -/
theorem step_ldDtX {s : State} {x : Reg} (h : s.Executes (.ldDtX x)) :
    ∃ t, step s = .next t ∧ t.dt.toNat = s.v[x].toNat - 1 :=
  ⟨((s.sample.setDt s.v[x]).advance).tick, step_of_executes h rfl h.1, toNat_tickTimer s.v[x]⟩

/-- Settles O53: FX07 answers `toReg` of DT and FX15 `setDt` of V[X]; the step then ticks what each
left. -/
theorem delayTimerMoves : Obligations.DelayTimerMoves := by
  intro s x
  exact ⟨toReg_answers s x s.dt, rfl, step_ldXDt, step_ldDtX⟩

end Sys2Proof.Machine
end


section
/-! PROOFS. The decoder and the encoder: the fields of each layout, the word of given fields, and what
each family decodes (30_encoding.md R71, R73, R80). -/
namespace Sys2Proof

/-! ### The fields of an encoded word -/

@[simp] theorem fieldF_encNNN (f : BitVec 4) (nnn : Addr12) : fieldF (encNNN f nnn) = f.toNat := by
  rw [fieldF_eq, toNat_encNNN]
  omega

@[simp] theorem fieldNNN_encNNN (f : BitVec 4) (nnn : Addr12) : fieldNNN (encNNN f nnn) = nnn := by
  refine BitVec.eq_of_toNat_eq ?_
  rw [toNat_fieldNNN, toNat_encNNN]
  omega

@[simp] theorem fieldF_encXNN (f : BitVec 4) (x : Reg) (nn : Byte) :
    fieldF (encXNN f x nn) = f.toNat := by
  rw [fieldF_eq, toNat_encXNN]
  omega

@[simp] theorem fieldX_encXNN (f : BitVec 4) (x : Reg) (nn : Byte) :
    fieldX (encXNN f x nn) = x := by
  refine Fin.ext ?_
  rw [val_fieldX, toNat_encXNN]
  omega

@[simp] theorem fieldNN_encXNN (f : BitVec 4) (x : Reg) (nn : Byte) :
    fieldNN (encXNN f x nn) = nn := by
  refine BitVec.eq_of_toNat_eq ?_
  rw [toNat_fieldNN, toNat_encXNN]
  omega

@[simp] theorem fieldF_encXYN (f : BitVec 4) (x y : Reg) (n : Rows) :
    fieldF (encXYN f x y n) = f.toNat := by
  rw [fieldF_eq, toNat_encXYN]
  omega

@[simp] theorem fieldX_encXYN (f : BitVec 4) (x y : Reg) (n : Rows) :
    fieldX (encXYN f x y n) = x := by
  refine Fin.ext ?_
  rw [val_fieldX, toNat_encXYN]
  omega

@[simp] theorem fieldY_encXYN (f : BitVec 4) (x y : Reg) (n : Rows) :
    fieldY (encXYN f x y n) = y := by
  refine Fin.ext ?_
  rw [val_fieldY, toNat_encXYN]
  omega

@[simp] theorem fieldN_encXYN (f : BitVec 4) (x y : Reg) (n : Rows) :
    fieldN (encXYN f x y n) = n := by
  refine BitVec.eq_of_toNat_eq ?_
  rw [toNat_fieldN, toNat_encXYN]
  omega

/-! ### Decoding an encoded instruction -/

/-- SYS decodes where its address is neither that of CLS nor that of RET (30_encoding.md R73). -/
theorem decode_encode_sys (nnn : Addr12) (h : WellFormed (.sys nnn) = true) :
    decode (encode (.sys nnn)) = some (.sys nnn) := by
  simp only [WellFormed, Bool.and_eq_true, bne_iff_ne] at h
  obtain ⟨hcls, hret⟩ := h
  have hcls' : encNNN 0x0 nnn ≠ 0x00E0 := fun e =>
    hcls ((fieldNNN_encNNN 0x0 nnn).symm.trans (congrArg fieldNNN e))
  have hret' : encNNN 0x0 nnn ≠ 0x00EE := fun e =>
    hret ((fieldNNN_encNNN 0x0 nnn).symm.trans (congrArg fieldNNN e))
  have hsys : decodeFamily0 Config.params (encNNN 0x0 nnn) = some (.sys nnn) := by
    rw [decodeFamily0, if_neg hcls', if_neg hret', fieldNNN_encNNN]
    rfl
  rw [encode, decode, decodeWith, fieldF_encNNN]
  exact hsys

/-- Decoding undoes encoding: the family picks the decoder's branch, the low nibble or byte its row
there, and the fields give the operands back. -/
theorem decode_encode (i : Instr) (h : WellFormed i = true) : decode (encode i) = some i := by
  cases i with
  | sys nnn => exact decode_encode_sys nnn h
  | cls | ret => rfl
  | jp | call | ldI | jpV0 => simp [decode, decodeWith, encode]
  | seImm | sneImm | ldImm | addImm | rnd => simp [decode, decodeWith, encode]
  | seReg | sneReg | drw => simp [decode, decodeWith, encode, Config.params]
  | ldReg | orReg | andReg | xorReg | addReg | subReg | shr | subnReg | shl =>
    simp [decode, decodeWith, encode, decodeFamily8]
  | skp | sknp => simp [decode, decodeWith, encode, decodeFamilyE]
  | ldXDt | ldXK | ldDtX | ldStX | addIX | ldFX | ldBX | ldMemX | ldXMem =>
    simp [decode, decodeWith, encode, decodeFamilyF]

/-- Settles O1: the two bytes are the word's, and the word decodes to its instruction. -/
theorem decodeOfEncode : Obligations.DecodeOfEncode := by
  intro i h
  exact decodeBytes_bytesOfWord Config.params (encode i) i (decode_encode i h)

/-! ### Encoding a decoded word -/

/-- A word of family f is layout `nnn` of its own fields. -/
theorem encNNN_of_fields {w : Word} {f : BitVec 4} (hf : fieldF w = f.toNat) :
    encNNN f (fieldNNN w) = w := by
  refine BitVec.eq_of_toNat_eq ?_
  rw [toNat_encNNN, toNat_fieldNNN, ← hf, fieldF_eq]
  omega

/-- A word of family f with low byte nn is layout `xnn` of its own fields. -/
theorem encXNN_of_fields {w : Word} {f : BitVec 4} {nn : Byte} (hf : fieldF w = f.toNat)
    (hn : fieldNN w = nn) : encXNN f (fieldX w) nn = w := by
  refine BitVec.eq_of_toNat_eq ?_
  rw [toNat_encXNN, val_fieldX, ← hn, toNat_fieldNN, ← hf, fieldF_eq]
  omega

/-- A word of family f with low nibble n is layout `xyn` of its own fields. -/
theorem encXYN_of_fields {w : Word} {f : BitVec 4} {n : Rows} (hf : fieldF w = f.toNat)
    (hn : fieldN w = n) : encXYN f (fieldX w) (fieldY w) n = w := by
  refine BitVec.eq_of_toNat_eq ?_
  rw [toNat_encXYN, val_fieldX, val_fieldY, ← hn, toNat_fieldN, ← hf, fieldF_eq]
  omega

variable {p : Config.Params} {w : Word} {i : Instr}

theorem encode_of_decodeFamily0 (hf : fieldF w = 0x0) (h : decodeFamily0 p w = some i) :
    WellFormed i = true ∧ encode i = w := by
  unfold decodeFamily0 at h
  split_ifs at h with hcls hret hsys <;> cases h
  · exact ⟨rfl, hcls.symm⟩
  · exact ⟨rfl, hret.symm⟩
  · have hw : encNNN 0x0 (fieldNNN w) = w := encNNN_of_fields hf
    refine ⟨?_, hw⟩
    simp only [WellFormed, Bool.and_eq_true, bne_iff_ne]
    exact ⟨fun e => hcls (by rw [← hw, e]; rfl), fun e => hret (by rw [← hw, e]; rfl)⟩

theorem encode_of_decodeFamily8 (hf : fieldF w = 0x8) (h : decodeFamily8 w = some i) :
    WellFormed i = true ∧ encode i = w := by
  simp only [decodeFamily8] at h
  split_ifs at h with hn hn hn hn hn hn hn hn hn <;> cases h <;> exact ⟨rfl, encXYN_of_fields hf hn⟩

theorem encode_of_decodeFamilyE (hf : fieldF w = 0xE) (h : decodeFamilyE w = some i) :
    WellFormed i = true ∧ encode i = w := by
  simp only [decodeFamilyE] at h
  split_ifs at h with hn hn <;> cases h <;> exact ⟨rfl, encXNN_of_fields hf hn⟩

theorem encode_of_decodeFamilyF (hf : fieldF w = 0xF) (h : decodeFamilyF w = some i) :
    WellFormed i = true ∧ encode i = w := by
  simp only [decodeFamilyF] at h
  split_ifs at h with hn hn hn hn hn hn hn hn hn <;> cases h <;> exact ⟨rfl, encXNN_of_fields hf hn⟩

/-- Settles O2: in each family (`h_1` is family 0, `h_16` family F) the layout of the word's own fields is
the word; no nibble is above 0xF. -/
theorem encodeOfDecode : Obligations.EncodeOfDecode := by
  intro p w i h
  unfold decodeWith at h
  split at h
  case h_1 hf => exact encode_of_decodeFamily0 hf h
  case h_9 hf => exact encode_of_decodeFamily8 hf h
  case h_15 hf => exact encode_of_decodeFamilyE hf h
  case h_16 hf => exact encode_of_decodeFamilyF hf h
  case h_17 => exact nomatch h
  case h_6 hf =>
    split_ifs at h with hn
    cases h
    exact ⟨rfl, encXYN_of_fields hf hn⟩
  case h_10 hf =>
    split_ifs at h with hn
    cases h
    exact ⟨rfl, encXYN_of_fields hf hn.1⟩
  case h_14 hf =>
    cases h
    exact ⟨rfl, encXYN_of_fields hf rfl⟩
  case h_2 hf | h_3 hf | h_11 hf | h_12 hf =>
    cases h
    exact ⟨rfl, encNNN_of_fields hf⟩
  case h_4 hf | h_5 hf | h_7 hf | h_8 hf | h_13 hf =>
    cases h
    exact ⟨rfl, encXNN_of_fields hf rfl⟩

/-! ### The Unknown words -/

theorem fieldN_eq_iff (w : Word) (n : Rows) : fieldN w = n ↔ w.toNat % 16 = n.toNat := by
  rw [← BitVec.toNat_inj, toNat_fieldN]

theorem fieldNN_eq_iff (w : Word) (nn : Byte) : fieldNN w = nn ↔ w.toNat % 256 = nn.toNat := by
  rw [← BitVec.toNat_inj, toNat_fieldNN]

/-- A word is Unknown to a decoder's chain of rows where it is not the first row's and is Unknown to the
rest of the chain. -/
theorem ite_some_eq_none_iff {c : Prop} [Decidable c] {o : Option Instr} :
    (if c then some i else o) = none ↔ ¬ c ∧ o = none := by
  by_cases hc : c <;> simp [hc]

theorem decodeFamily0_eq_none_iff : decodeFamily0 p w = none ↔
    p.p0NNN = .unknown ∧ w.toNat ≠ 0x00E0 ∧ w.toNat ≠ 0x00EE := by
  have hp : ¬ p.p0NNN = .sysNop ↔ p.p0NNN = .unknown := by cases p.p0NNN <;> decide
  simp only [decodeFamily0, ite_some_eq_none_iff, hp, ← BitVec.toNat_inj, and_true]
  change ¬ w.toNat = 0x00E0 ∧ ¬ w.toNat = 0x00EE ∧ _ ↔ _
  tauto

theorem decodeFamily8_eq_none_iff : decodeFamily8 w = none ↔
    w.toNat % 16 ∈ [0x8, 0x9, 0xA, 0xB, 0xC, 0xD, 0xF] := by
  simp only [decodeFamily8, ite_some_eq_none_iff, fieldN_eq_iff, BitVec.ofNat_eq_ofNat,
    BitVec.toNat_ofNat, Nat.reducePow, Nat.zero_mod, Nat.one_mod, Nat.reduceMod, and_true,
    List.mem_cons, List.not_mem_nil, or_false]
  omega

theorem decodeFamilyE_eq_none_iff : decodeFamilyE w = none ↔
    w.toNat % 256 ≠ 0x9E ∧ w.toNat % 256 ≠ 0xA1 := by
  simp [decodeFamilyE, ite_some_eq_none_iff, fieldNN_eq_iff]

theorem decodeFamilyF_eq_none_iff : decodeFamilyF w = none ↔
    w.toNat % 256 ∉ [0x07, 0x0A, 0x15, 0x18, 0x1E, 0x29, 0x33, 0x55, 0x65] := by
  simp [decodeFamilyF, ite_some_eq_none_iff, fieldNN_eq_iff]

/-- Settles O3: the family is w / 4096, and in each family (`h_1` is family 0, `h_16` family F) the words
that miss its rows are those of its clause. -/
theorem unknownWordsAreExactlyThese : Obligations.UnknownWordsAreExactlyThese := by
  intro p w
  have hp : ¬ p.p9XY0 = .sne ↔ p.p9XY0 = .unknown := by cases p.p9XY0 <;> decide
  have hlt : w.toNat / 4096 < 16 := by omega
  rw [← fieldF_eq] at hlt ⊢
  unfold decodeWith
  split <;> rename_i hf
  case h_1 => simp [hf, decodeFamily0_eq_none_iff]
  case h_6 => simp [hf, fieldN_eq_iff]
  case h_9 => rw [decodeFamily8_eq_none_iff]; simp [hf]
  case h_10 => simp [hf, fieldN_eq_iff, ← hp, imp_iff_not_or]
  case h_15 => simp [hf, decodeFamilyE_eq_none_iff]
  case h_16 => rw [decodeFamilyF_eq_none_iff]; simp [hf]
  case h_17 =>
    simp only [imp_false] at *
    omega
  all_goals simp [hf]

/-- Settles O4: each word is run through the decoder. -/
theorem specWordsDecode : Obligations.SpecWordsDecode := by
  unfold Obligations.SpecWordsDecode
  decide

end Sys2Proof
end


section
/-! PROOFS. What an instruction may change, which faults it may raise and how it moves pc, said once for
every instruction (10_state.md sections 2 to 10; 40_engine.md R104; 60_exceptions.md R261). -/
namespace Sys2Proof.Machine

variable {s t : State} {i : Instr} {c : FaultCode}

/-! ### Every instruction answers -/

/-- A check between two answers answers. -/
theorem ite_next_answers (c : Prop) [Decidable c] (a b : State) :
    ∃ t, (if c then Host.Outcome.next a else .next b : Host.Outcome State Fault Refusal) = .next t := by
  by_cases hc : c
  · exact ⟨a, if_pos hc⟩
  · exact ⟨b, if_neg hc⟩

/-- Every instruction answers a next state (60_exceptions.md R260). -/
theorem exec_answers (i : Instr) (s : State) : ∃ t, exec i s = .next t := by
  cases i with
  | ret =>
    by_cases h : 0 < s.sp.val
    · exact ⟨_, exec_ret_iff.2 (.inl ⟨h, rfl⟩)⟩
    · exact ⟨_, exec_ret_iff.2 (.inr ⟨h, rfl⟩)⟩
  | call nnn =>
    by_cases h : s.sp.val < 16
    · exact ⟨_, exec_call_iff.2 (.inl ⟨h, rfl⟩)⟩
    · exact ⟨_, exec_call_iff.2 (.inr ⟨h, rfl⟩)⟩
  | drw x y n =>
    cases hr : s.reaches n.toNat with
    | false => exact ⟨_, exec_drw_iff.2 (.inr (.inl ⟨hr, rfl⟩))⟩
    | true =>
      cases hg : (s.drawCells x y n).all onGrid with
      | false => exact ⟨_, exec_drw_iff.2 (.inr (.inr ⟨hr, hg, rfl⟩))⟩
      | true => exact ⟨_, exec_drw_iff.2 (.inl ⟨hr, hg, rfl⟩)⟩
  | skp | sknp | ldBX | ldMemX | ldXMem => exact ite_next_answers _ _ _
  | _ => exact ⟨_, rfl⟩

/-! ### The frame of each instruction -/

/-- The state s with the pieces an instruction may change taken from t: every other piece is as before
(10_state.md sections 2 to 10; 20_memory.md section 4). -/
def frame (s t : State) : Instr → State
  | .sys _ | .jp _ | .jpV0 _ | .seImm _ _ | .sneImm _ _ | .seReg _ _ | .sneReg _ _ =>
    { s with pc := t.pc }
  | .ldImm _ _ | .addImm _ _ | .ldReg _ _ | .orReg _ _ | .andReg _ _ | .xorReg _ _ | .addReg _ _
  | .subReg _ _ | .shr _ _ | .subnReg _ _ | .shl _ _ | .rnd _ _ | .ldXDt _ =>
    { s with v := t.v, pc := t.pc }
  | .cls => { s with fb := t.fb, dirty := t.dirty, pc := t.pc }
  | .drw _ _ _ => { s with v := t.v, fb := t.fb, dirty := t.dirty, pc := t.pc, fault := t.fault }
  | .call _ => { s with stack := t.stack, sp := t.sp, pc := t.pc, fault := t.fault }
  | .ret => { s with sp := t.sp, pc := t.pc, fault := t.fault }
  | .skp _ | .sknp _ => { s with pc := t.pc, fault := t.fault }
  | .ldXK _ => { s with v := t.v, wait := t.wait, pc := t.pc }
  | .ldDtX _ => { s with dt := t.dt, pc := t.pc }
  | .ldStX _ => { s with st := t.st, pc := t.pc }
  | .ldI _ | .ldFX _ => { s with i := t.i, pc := t.pc }
  | .addIX _ => { s with v := t.v, i := t.i, pc := t.pc }
  | .ldBX _ => { s with mem := t.mem, pc := t.pc, fault := t.fault }
  | .ldMemX _ => { s with mem := t.mem, i := t.i, pc := t.pc, fault := t.fault }
  | .ldXMem _ => { s with v := t.v, i := t.i, pc := t.pc, fault := t.fault }

/-- Every instruction keeps to its frame, whether it completes or raises a fault. -/
theorem exec_frame (h : exec i s = .next t) : t = frame s t i := by
  cases i with
  | ret => obtain ⟨-, rfl⟩ | ⟨-, rfl⟩ := exec_ret_iff.1 h <;> rfl
  | call => obtain ⟨-, rfl⟩ | ⟨-, rfl⟩ := exec_call_iff.1 h <;> rfl
  | drw => obtain ⟨-, -, rfl⟩ | ⟨-, rfl⟩ | ⟨-, -, rfl⟩ := exec_drw_iff.1 h <;> rfl
  | skp => obtain ⟨-, rfl⟩ | ⟨-, rfl⟩ := exec_skp_iff.1 h <;> rfl
  | sknp => obtain ⟨-, rfl⟩ | ⟨-, rfl⟩ := exec_sknp_iff.1 h <;> rfl
  | ldBX => obtain ⟨-, rfl⟩ | ⟨-, rfl⟩ := exec_ldBX_iff.1 h <;> rfl
  | ldMemX => obtain ⟨-, rfl⟩ | ⟨-, rfl⟩ := exec_ldMemX_iff.1 h <;> rfl
  | ldXMem => obtain ⟨-, rfl⟩ | ⟨-, rfl⟩ := exec_ldXMem_iff.1 h <;> rfl
  | _ =>
    cases h
    rfl

/-- Only CALL writes stack entries (10_state.md R32). -/
theorem exec_keeps_stack (h : exec i s = .next t) (hi : ∀ nnn, i ≠ .call nnn) :
    t.stack = s.stack := by
  cases i with
  | call nnn => exact absurd rfl (hi nnn)
  | _ => exact (congrArg State.stack (exec_frame h) :)

/-- Only CALL and RET write SP (10_state.md R32). -/
theorem exec_keeps_sp (h : exec i s = .next t) (hi : ∀ nnn, i ≠ .call nnn) (hret : i ≠ .ret) :
    t.sp = s.sp := by
  cases i with
  | call nnn => exact absurd rfl (hi nnn)
  | ret => exact absurd rfl hret
  | _ => exact (congrArg State.sp (exec_frame h) :)

/-- Only ANNN, FX1E, FX29, FX55 and FX65 write I (10_state.md R30). -/
theorem exec_keeps_i (h : exec i s = .next t) (hi : ∀ nnn, i ≠ .ldI nnn)
    (hx : ∀ x, i ≠ .addIX x ∧ i ≠ .ldFX x ∧ i ≠ .ldMemX x ∧ i ≠ .ldXMem x) : t.i = s.i := by
  cases i with
  | ldI nnn => exact absurd rfl (hi nnn)
  | addIX x | ldFX x | ldMemX x | ldXMem x => simpa using hx x
  | _ => exact (congrArg State.i (exec_frame h) :)

/-- Only the drawing instructions write the framebuffer (10_state.md R38). -/
theorem exec_keeps_fb (h : exec i s = .next t) (hd : drawsFrame i = false) : t.fb = s.fb := by
  cases i with
  | cls | drw => exact nomatch hd
  | _ => exact (congrArg State.fb (exec_frame h) :)

/-- Only FX0A enters the key-wait (10_state.md R42). -/
theorem exec_keeps_wait (h : exec i s = .next t) (hi : ∀ x, i ≠ .ldXK x) : t.wait = s.wait := by
  cases i with
  | ldXK x => exact absurd rfl (hi x)
  | _ => exact (congrArg State.wait (exec_frame h) :)

/-- Only FX33 and FX55 write memory (20_memory.md section 4). -/
theorem exec_keeps_mem (h : exec i s = .next t) (hi : ∀ x, i ≠ .ldBX x ∧ i ≠ .ldMemX x) :
    t.mem = s.mem := by
  cases i with
  | ldBX x | ldMemX x => simpa using hi x
  | _ => exact (congrArg State.mem (exec_frame h) :)

/-- No instruction writes the sampled inputs or takes one (10_state.md R36; log entry 1). -/
theorem exec_keeps_inputs (h : exec i s = .next t) :
    t.keys = s.keys ∧ t.rnd = s.rnd ∧ t.inputs = s.inputs ∧ t.inputTime = s.inputTime := by
  cases i with
  | _ => exact ⟨(congrArg State.keys (exec_frame h) :), (congrArg State.rnd (exec_frame h) :),
      (congrArg State.inputs (exec_frame h) :), (congrArg State.inputTime (exec_frame h) :)⟩

/-- Settles O21: each clause is the lemma of its field. -/
theorem eachFieldHasItsWriters : Obligations.EachFieldHasItsWriters := by
  intro i s t h
  obtain ⟨hdt, hst⟩ := exec_timers h
  refine ⟨exec_keeps_stack h, exec_keeps_sp h, exec_keeps_i h,
    fun hi => hdt.trans (dtAfter_of_ne_ldDtX hi), fun hi => hst.trans (stAfter_of_ne_ldStX hi),
    fun hcls hdrw => ?_, exec_keeps_wait h, exec_keeps_mem h, exec_keeps_inputs h⟩
  have hd := drawsFrame_eq_false hcls hdrw
  exact ⟨exec_keeps_fb h hd, exec_keeps_dirty h hd⟩

/-! ### Faults -/

/-- The condition under which an instruction raises a fault code (60_exceptions.md R261, R269). -/
def Raises (s : State) : Instr → FaultCode → Prop
  | .call _, .stackOverflow => s.sp.val = 16
  | .ret, .stackUnderflow => s.sp.val = 0
  | .ldBX _, .dataOutOfRange => 0xFFF < s.i.toNat + 2
  | .ldMemX x, .dataOutOfRange | .ldXMem x, .dataOutOfRange => 0xFFF < s.i.toNat + x.val
  | .drw _ _ n, .dataOutOfRange => 1 ≤ n.toNat ∧ 0xFFF < s.i.toNat + n.toNat - 1
  | .drw x y n, .drawOutOfRange => (n.toNat = 0 ∨ s.i.toNat + n.toNat - 1 ≤ 0xFFF) ∧
      ∃ r < n.toNat, ∃ c < 8, (s.mem.read (s.i.toNat + r)).getLsbD (7 - c) = true ∧
        (63 < s.v[x].toNat + c ∨ 31 < s.v[y].toNat + r)
  | .skp x, .keyOutOfRange | .sknp x, .keyOutOfRange => 15 < s.v[x].toNat
  | _, _ => False

/-- The data check fails exactly for an access with a byte above 0xFFF (20_memory.md R58). -/
theorem State.reaches_eq_false_iff (s : State) (n : Nat) :
    s.reaches n = false ↔ 1 ≤ n ∧ 0xFFF < s.i.toNat + n - 1 := by
  rw [← Bool.not_eq_true, State.reaches_iff, Memory.size]
  omega

theorem State.reaches_eq_true_iff (s : State) (n : Nat) :
    s.reaches n = true ↔ n = 0 ∨ s.i.toNat + n - 1 ≤ 0xFFF := by
  rw [← Bool.not_eq_false, State.reaches_eq_false_iff]
  omega

/-- The data check of an access to bytes A to A + n (20_memory.md R58). -/
theorem State.not_reaches_succ_iff (s : State) (n : Nat) :
    ¬ s.reaches (n + 1) = true ↔ 0xFFF < s.i.toNat + n := by
  rw [State.reaches_iff, Memory.size]
  omega

/-- The draw check of DRW fails exactly for a set bit off the grid (45_display.md R212). -/
theorem drawCells_off_grid_iff (s : State) (x y : Reg) (n : Rows) :
    (s.drawCells x y n).all onGrid = false ↔
      ∃ r < n.toNat, ∃ c < 8, (s.mem.read (s.base + r)).getLsbD (7 - c) = true ∧
        (63 < s.v[x].toNat + c ∨ 31 < s.v[y].toNat + r) := by
  rw [← Bool.not_eq_true, drawCells_onGrid]
  push Not
  refine exists_congr fun r => and_congr_right fun _ => exists_congr fun c =>
    and_congr_right fun _ => and_congr_right fun _ => ?_
  omega

/-- Under the condition of a fault the instruction raises it and changes nothing else
(60_exceptions.md R262). -/
theorem exec_raises (hr : Raises s i c) : exec i s = .next (s.raise c) := by
  cases i with
  | call =>
    cases c with
    | stackOverflow => exact exec_call_iff.2 (.inr ⟨Nat.not_lt.2 hr.ge, rfl⟩)
    | _ => exact hr.elim
  | ret =>
    cases c with
    | stackUnderflow => exact exec_ret_iff.2 (.inr ⟨Nat.not_lt.2 hr.le, rfl⟩)
    | _ => exact hr.elim
  | ldBX =>
    cases c with
    | dataOutOfRange => exact exec_ldBX_iff.2 (.inr ⟨(s.not_reaches_succ_iff 2).2 hr, rfl⟩)
    | _ => exact hr.elim
  | ldMemX x =>
    cases c with
    | dataOutOfRange => exact exec_ldMemX_iff.2 (.inr ⟨(s.not_reaches_succ_iff x.val).2 hr, rfl⟩)
    | _ => exact hr.elim
  | ldXMem x =>
    cases c with
    | dataOutOfRange => exact exec_ldXMem_iff.2 (.inr ⟨(s.not_reaches_succ_iff x.val).2 hr, rfl⟩)
    | _ => exact hr.elim
  | drw x y n =>
    cases c with
    | dataOutOfRange => exact exec_drw_iff.2 (.inr (.inl ⟨(s.reaches_eq_false_iff _).2 hr, rfl⟩))
    | drawOutOfRange =>
      obtain ⟨hdata, hoff⟩ := hr
      exact exec_drw_iff.2 (.inr (.inr ⟨(s.reaches_eq_true_iff _).2 hdata,
        (drawCells_off_grid_iff s x y n).2 hoff, rfl⟩))
    | _ => exact hr.elim
  | skp =>
    cases c with
    | keyOutOfRange => exact exec_skp_iff.2 (.inl ⟨hr, rfl⟩)
    | _ => exact hr.elim
  | sknp =>
    cases c with
    | keyOutOfRange => exact exec_sknp_iff.2 (.inl ⟨hr, rfl⟩)
    | _ => exact hr.elim
  | _ => exact hr.elim

/-- Where an instruction that completes leaves pc: past itself, or past the next instruction too where
it skips; a control transfer sets it, and FX0A holds it where it enters the key-wait
(40_engine.md R104). -/
def MovesPc (s t : State) : Instr → Prop
  | .jp _ | .call _ | .ret | .jpV0 _ => True
  | .seImm _ _ | .sneImm _ _ | .seReg _ _ | .sneReg _ _ | .skp _ | .sknp _ =>
    t.pc = s.pc + 2 ∨ t.pc = s.pc + 4
  | .ldXK x => t.pc = s.pc + 2 ∨ t = { s with wait := some x }
  | _ => t.pc = s.pc + 2

/-- FX0A takes a pressed key and moves on, or enters the key-wait (46_timers_keys.md R236). -/
theorem exec_ldXK_cases {x : Reg} (h : exec (.ldXK x) s = .next t) :
    (s.anyKey = true ∧ t = s.takeKey x) ∨ (s.anyKey = false ∧ t = { s with wait := some x }) := by
  cases h
  cases hk : s.anyKey with
  | true => exact .inl ⟨rfl, rfl⟩
  | false => exact .inr ⟨rfl, by simp [State.takeKey, hk]⟩

/-- An instruction that meets no fault's condition leaves the fault state and moves pc. -/
theorem exec_completes (h : exec i s = .next t) (hno : ∀ c, ¬ Raises s i c) :
    t.fault = s.fault ∧ MovesPc s t i := by
  cases i with
  | call =>
    obtain ⟨-, rfl⟩ | ⟨hsp, -⟩ := exec_call_iff.1 h
    · exact ⟨rfl, True.intro⟩
    · exact absurd (show s.sp.val = 16 by omega) (hno .stackOverflow)
  | ret =>
    obtain ⟨-, rfl⟩ | ⟨hsp, -⟩ := exec_ret_iff.1 h
    · exact ⟨rfl, True.intro⟩
    · exact absurd (Nat.eq_zero_of_not_pos hsp) (hno .stackUnderflow)
  | ldBX =>
    obtain ⟨-, rfl⟩ | ⟨hreach, -⟩ := exec_ldBX_iff.1 h
    · exact ⟨rfl, rfl⟩
    · exact absurd ((s.not_reaches_succ_iff 2).1 hreach) (hno .dataOutOfRange)
  | ldMemX x =>
    obtain ⟨-, rfl⟩ | ⟨hreach, -⟩ := exec_ldMemX_iff.1 h
    · exact ⟨rfl, rfl⟩
    · exact absurd ((s.not_reaches_succ_iff x.val).1 hreach) (hno .dataOutOfRange)
  | ldXMem x =>
    obtain ⟨-, rfl⟩ | ⟨hreach, -⟩ := exec_ldXMem_iff.1 h
    · exact ⟨rfl, rfl⟩
    · exact absurd ((s.not_reaches_succ_iff x.val).1 hreach) (hno .dataOutOfRange)
  | drw x y n =>
    obtain ⟨-, -, rfl⟩ | ⟨hreach, -⟩ | ⟨hreach, hoff, -⟩ := exec_drw_iff.1 h
    · exact ⟨rfl, rfl⟩
    · exact absurd ((s.reaches_eq_false_iff _).1 hreach) (hno .dataOutOfRange)
    · have hdata := (s.reaches_eq_true_iff _).1 hreach
      exact absurd ⟨hdata, (drawCells_off_grid_iff s x y n).1 hoff⟩ (hno .drawOutOfRange)
  | skp =>
    obtain ⟨hkey, -⟩ | ⟨-, rfl⟩ := exec_skp_iff.1 h
    · exact absurd hkey (hno .keyOutOfRange)
    · exact ⟨rfl, s.skipIf_pc_cases _⟩
  | sknp =>
    obtain ⟨hkey, -⟩ | ⟨-, rfl⟩ := exec_sknp_iff.1 h
    · exact absurd hkey (hno .keyOutOfRange)
    · exact ⟨rfl, s.skipIf_pc_cases _⟩
  | seImm | sneImm | seReg | sneReg =>
    cases h
    exact ⟨rfl, s.skipIf_pc_cases _⟩
  | ldXK =>
    obtain ⟨hkey, rfl⟩ | ⟨-, rfl⟩ := exec_ldXK_cases h
    · exact ⟨rfl, .inl (if_pos hkey)⟩
    · exact ⟨rfl, .inr rfl⟩
  | jp | jpV0 =>
    cases h
    exact ⟨rfl, True.intro⟩
  | _ =>
    cases h
    exact ⟨rfl, rfl⟩

/-- An instruction raises a code under that code's condition and then changes nothing else, or it
completes (60_exceptions.md R262). -/
theorem exec_cases (h : exec i s = .next t) :
    (∃ c, Raises s i c ∧ t = s.raise c) ∨
      ((∀ c, ¬ Raises s i c) ∧ t.fault = s.fault ∧ MovesPc s t i) := by
  by_cases hr : ∃ c, Raises s i c
  · obtain ⟨c, hc⟩ := hr
    exact .inl ⟨c, hc, Host.Outcome.next.inj (h.symm.trans (exec_raises hc))⟩
  · rw [not_exists] at hr
    exact .inr ⟨hr, exec_completes h hr⟩

/-- An instruction executed with no fault ends in the fault c exactly under the condition of c. -/
theorem exec_fault_iff (hf : s.fault = none) (h : exec i s = .next t) :
    t.fault = some c ↔ Raises s i c := by
  refine ⟨fun ht => ?_, fun hr => ?_⟩
  · obtain ⟨d, hd, rfl⟩ | ⟨-, hkeep, -⟩ := exec_cases h
    · cases ht
      exact hd
    · exact nomatch hf.symm.trans (hkeep.symm.trans ht)
  · rw [Host.Outcome.next.inj (h.symm.trans (exec_raises hr))]
    rfl

/-- Settles O60: the registers by `exec_keeps_reg`; pc and the fault state by `exec_cases`, which says
that the instruction completed or raised one of its own codes. -/
theorem registersPcAndFaultHaveTheirWriters : Obligations.RegistersPcAndFaultHaveTheirWriters := by
  intro i s t h
  have hregs : ∀ r : Reg, t.v[r] ≠ s.v[r] → mayWriteReg i r := fun r hr =>
    not_imp_comm.1 (exec_keeps_reg h) hr
  refine ⟨by cases i <;> exact hregs, ?_⟩
  obtain ⟨c, hr, rfl⟩ | ⟨-, hf, hpc⟩ := exec_cases h
  · cases i with
    | call =>
      cases c with
      | stackOverflow => exact ⟨True.intro, .inr rfl⟩
      | _ => exact hr.elim
    | ret =>
      cases c with
      | stackUnderflow => exact ⟨True.intro, .inr rfl⟩
      | _ => exact hr.elim
    | ldBX | ldMemX | ldXMem =>
      cases c with
      | dataOutOfRange => exact ⟨.inr rfl, .inr rfl⟩
      | _ => exact hr.elim
    | drw =>
      cases c with
      | dataOutOfRange => exact ⟨.inr (.inl rfl), .inr (.inl rfl)⟩
      | drawOutOfRange => exact ⟨.inr (.inr rfl), .inr (.inr rfl)⟩
      | _ => exact hr.elim
    | skp | sknp =>
      cases c with
      | keyOutOfRange => exact ⟨.inr (.inr rfl), .inr rfl⟩
      | _ => exact hr.elim
    | _ => exact hr.elim
  · cases i with
    | call | ret => exact ⟨hpc, .inl hf⟩
    | ldBX | ldMemX | ldXMem | drw => exact ⟨.inl hpc, .inl hf⟩
    | skp | sknp => exact ⟨hpc.imp_right .inl, .inl hf⟩
    | _ => exact ⟨hpc, hf⟩

/-! ### What an instruction reads -/

/-- A read of n bytes depends on those bytes alone (20_memory.md R57). -/
theorem Memory.readBytes_congr {m m' : Memory} {a n : Nat}
    (h : ∀ r < n, m.read (a + r) = m'.read (a + r)) : m.readBytes a n = m'.readBytes a n := by
  induction n generalizing a with
  | zero => rfl
  | succ n ih =>
    have hrest : m.readBytes (a + 1) n = m'.readBytes (a + 1) n := ih fun r hr => by
      rw [Nat.add_assoc, Nat.add_comm 1 r]
      exact h (r + 1) (Nat.succ_lt_succ hr)
    rw [Memory.readBytes, Memory.readBytes, hrest, show m.read a = m'.read a from h 0 n.succ_pos]

/-- A block load depends on the bytes it loads alone (44_index_memory.md R200). -/
theorem loadRegs_congr {m m' : Memory} {a n : Nat} (v : Vector Byte 16)
    (h : ∀ r < n, m.read (a + r) = m'.read (a + r)) : loadRegs m a n v = loadRegs m' a n v := by
  induction n with
  | zero => rfl
  | succ n ih =>
    rw [loadRegs, loadRegs, ih fun r hr => h r (Nat.lt_succ_of_lt hr), h n n.lt_succ_self]

/-- The cells of DRW depend on memory through the sprite alone (45_display.md R211). -/
theorem State.drawCells_setMem {m : Memory} {x y : Reg} {n : Rows}
    (h : ∀ r < n.toNat, m.read (s.base + r) = s.mem.read (s.base + r)) :
    (s.setMem m).drawCells x y n = s.drawCells x y n :=
  congrArg (spriteCells (s.getV x).toNat (s.getV y).toNat) (Memory.readBytes_congr h)

/-- One check between two answers, each related to an answer of the same check. -/
theorem ite_next_related (R : State → State → Prop) {c : Prop} [Decidable c] {a a' b b' : State}
    (ha : R a' a) (hb : R b' b)
    (h : (if c then Host.Outcome.next a else .next b : Host.Outcome State Fault Refusal) = .next t) :
    ∃ u, (if c then Host.Outcome.next a' else .next b' : Host.Outcome State Fault Refusal) = .next u ∧
      R u t := by
  obtain ⟨hc, rfl⟩ | ⟨hc, rfl⟩ := ite_next_iff.1 h
  · exact ⟨a', if_pos hc, ha⟩
  · exact ⟨b', if_neg hc, hb⟩

/-- Settles O24: DXYN reads memory through its sprite, FX65 through its block load, and no other
instruction reads it. -/
theorem loadsReadOnlyTheirBytes : Obligations.LoadsReadOnlyTheirBytes := by
  intro i s t m h hm
  cases i with
  | drw x y n =>
    have hcells : (s.setMem m).drawCells x y n = s.drawCells x y n := s.drawCells_setMem hm
    have hdrw := fun u => exec_drw_iff (s := s.setMem m) (t := u) (x := x) (y := y) (n := n)
    rw [hcells] at hdrw
    obtain ⟨hc, hg, rfl⟩ | ⟨hc, rfl⟩ | ⟨hc, hg, rfl⟩ := exec_drw_iff.1 h
    · exact ⟨_, (hdrw _).2 (.inl ⟨hc, hg, rfl⟩), rfl⟩
    · exact ⟨_, (hdrw _).2 (.inr (.inl ⟨hc, rfl⟩)), rfl⟩
    · exact ⟨_, (hdrw _).2 (.inr (.inr ⟨hc, hg, rfl⟩)), rfl⟩
  | ldXMem x =>
    have hload : loadRegs m s.base (x.val + 1) s.v = loadRegs s.mem s.base (x.val + 1) s.v :=
      loadRegs_congr s.v fun r hr => hm r (Nat.le_of_lt_succ hr)
    obtain ⟨hc, rfl⟩ | ⟨hc, rfl⟩ := exec_ldXMem_iff.1 h
    · rw [← hload]
      exact ⟨_, exec_ldXMem_iff.2 (.inl ⟨hc, rfl⟩), rfl⟩
    · exact ⟨_, exec_ldXMem_iff.2 (.inr ⟨hc, rfl⟩), rfl⟩
  | ret =>
    obtain ⟨hc, rfl⟩ | ⟨hc, rfl⟩ := exec_ret_iff.1 h
    · exact ⟨_, exec_ret_iff.2 (.inl ⟨hc, rfl⟩), rfl⟩
    · exact ⟨_, exec_ret_iff.2 (.inr ⟨hc, rfl⟩), rfl⟩
  | call =>
    obtain ⟨hc, rfl⟩ | ⟨hc, rfl⟩ := exec_call_iff.1 h
    · exact ⟨_, exec_call_iff.2 (.inl ⟨hc, rfl⟩), rfl⟩
    · exact ⟨_, exec_call_iff.2 (.inr ⟨hc, rfl⟩), rfl⟩
  | skp | sknp | ldBX | ldMemX =>
    exact ite_next_related (fun u t : State => u = { t with mem := u.mem }) rfl rfl h
  | _ =>
    cases h
    exact ⟨_, rfl, rfl⟩

/-- Settles O25: an instruction with a check makes the same check, and every other one but CXNN the same
update. -/
theorem randomByteMattersOnlyToRnd : Obligations.RandomByteMattersOnlyToRnd := by
  intro i s t b hi h
  cases i with
  | rnd x nn => exact absurd rfl (hi x nn)
  | ret =>
    obtain ⟨hc, rfl⟩ | ⟨hc, rfl⟩ := exec_ret_iff.1 h
    · exact exec_ret_iff.2 (.inl ⟨hc, rfl⟩)
    · exact exec_ret_iff.2 (.inr ⟨hc, rfl⟩)
  | call =>
    obtain ⟨hc, rfl⟩ | ⟨hc, rfl⟩ := exec_call_iff.1 h
    · exact exec_call_iff.2 (.inl ⟨hc, rfl⟩)
    · exact exec_call_iff.2 (.inr ⟨hc, rfl⟩)
  | drw =>
    obtain ⟨hc, hg, rfl⟩ | ⟨hc, rfl⟩ | ⟨hc, hg, rfl⟩ := exec_drw_iff.1 h
    · exact exec_drw_iff.2 (.inl ⟨hc, hg, rfl⟩)
    · exact exec_drw_iff.2 (.inr (.inl ⟨hc, rfl⟩))
    · exact exec_drw_iff.2 (.inr (.inr ⟨hc, hg, rfl⟩))
  | skp | sknp | ldBX | ldMemX | ldXMem =>
    obtain ⟨hc, rfl⟩ | ⟨hc, rfl⟩ := ite_next_iff.1 h
    · exact ite_next_iff.2 (.inl ⟨hc, rfl⟩)
    · exact ite_next_iff.2 (.inr ⟨hc, rfl⟩)
  | _ =>
    cases h
    rfl

end Sys2Proof.Machine
end


section
/-! PROOFS. What the engine answers, said once for every choice of the decoding parameters, and what
follows for the Outcome, the faults, the keys and the timers of a step (40_engine.md R100 to R110). -/
namespace Sys2Proof.Machine

variable {p : Config.Params} {s t : State} {o : StepOutcome} {i : Instr} {c : FaultCode}

/-! ### The engine's answers -/

/-- Everything the engine can answer from s, case by case (40_engine.md R100). -/
inductive Answer (p : Config.Params) (s : State) : State × StepOutcome → Prop
  /-- The block was in the fault state (60_exceptions.md R263). -/
  | inFault {c : FaultCode} (hf : s.fault = some c) : Answer p s (halted s c)
  /-- The block was in the key-wait (40_engine.md R107). -/
  | inWait {x : Reg} (hf : s.fault = none) (hw : s.wait = some x) :
    Answer p s (finish s (s.sample.keyWaitCycle x) false none)
  /-- The fetch was out of range (40_engine.md R101). -/
  | fetchFault (hf : s.fault = none) (hw : s.wait = none) (hc : s.canFetch = false) :
    Answer p s (faulted s .fetchOutOfRange)
  /-- The word fetched was Unknown (40_engine.md R106). -/
  | unknownWord (hf : s.fault = none) (hw : s.wait = none) (hc : s.canFetch = true)
    (hd : decodeWith p s.fetchWord = none) :
    Answer p s (finish s (execUnknown s.sample) false (some (s.pc, s.fetchWord)))
  /-- The instruction raised a fault (40_engine.md R110). -/
  | instrFault {i : Instr} {u : State} {c : FaultCode} (hf : s.fault = none) (hw : s.wait = none)
    (hc : s.canFetch = true) (hd : decodeWith p s.fetchWord = some i)
    (he : exec i s.sample = .next u) (hu : u.fault = some c) : Answer p s (faulted s c)
  /-- The instruction completed (40_engine.md R103). -/
  | instrDone {i : Instr} {u : State} (hf : s.fault = none) (hw : s.wait = none)
    (hc : s.canFetch = true) (hd : decodeWith p s.fetchWord = some i)
    (he : exec i s.sample = .next u) (hu : u.fault = none) :
    Answer p s (finish s u (drawsFrame i) none)

/-- The engine answers, in every state (60_exceptions.md sections 1 and 2). -/
theorem engine_answers (p : Config.Params) (s : State) :
    ∃ r, engine p s = .next r ∧ Answer p s r := by
  cases hf : s.fault with
  | some c => exact ⟨_, engine_fault p s c hf, .inFault hf⟩
  | none =>
  cases hw : s.wait with
  | some x => exact ⟨_, engine_wait p s x hf hw, .inWait hf hw⟩
  | none =>
  cases hc : s.canFetch with
  | false => exact ⟨_, engine_no_fetch p s hf hw hc, .fetchFault hf hw hc⟩
  | true =>
  cases hd : decodeWith p s.fetchWord with
  | none => exact ⟨_, engine_unknown p s hf hw hc hd, .unknownWord hf hw hc hd⟩
  | some i =>
    obtain ⟨u, he⟩ := exec_answers i s.sample
    refine ⟨_, engine_instr p s u i hf hw hc hd he, ?_⟩
    cases hu : u.fault with
    | some c => exact settle_fault s u _ c hu ▸ .instrFault hf hw hc hd he hu
    | none => exact settle_next s u _ hu ▸ .instrDone hf hw hc hd he hu

/-- What the engine answers is one of its answers. -/
theorem answer_of_engine {r : State × StepOutcome} (h : engine p s = .next r) : Answer p s r := by
  obtain ⟨r', hr', ha⟩ := engine_answers p s
  rwa [Host.Outcome.next.inj (h.symm.trans hr')]

/-- Settles O16: by `engine_answers`. -/
theorem everyStepAnswersANextState : Obligations.EveryStepAnswersANextState := by
  intro p s
  obtain ⟨r, hr, -⟩ := engine_answers p s
  exact ⟨r, hr⟩

/-- The step answers, in every state. -/
theorem step_answers (s : State) : ∃ t, step s = .next t := by
  obtain ⟨r, hr, -⟩ := engine_answers Config.params s
  exact ⟨r.1, stepWith_of_engine hr⟩

/-- A step's state comes with an Outcome of the engine. -/
theorem engine_of_step (h : step s = .next t) : ∃ o, engine Config.params s = .next (t, o) := by
  obtain ⟨⟨t', o⟩, hr, -⟩ := engine_answers Config.params s
  have ht : step s = .next t' := stepWith_of_engine hr
  cases h.symm.trans ht
  exact ⟨o, hr⟩

/-! ### The Outcome -/

/-- What a faulting step answers (40_engine.md R110; 60_exceptions.md R262). -/
theorem engine_raises (hf : s.fault = none) (h : engine p s = .next (t, o)) (ht : t.fault = some c) :
    (t, o) = faulted s c := by
  generalize hr : (t, o) = r at h
  cases answer_of_engine h with
  | inFault hf' => exact nomatch hf.symm.trans hf'
  | fetchFault | instrFault =>
    cases hr
    cases ht
    rfl
  | inWait | unknownWord =>
    cases hr
    exact nomatch hf.symm.trans ht
  | instrDone _ _ _ _ _ hu =>
    cases hr
    exact nomatch hu.symm.trans ht

/-- Settles O14: a step that enters the fault state is `faulted`. -/
theorem faultsArePrecise : Obligations.FaultsArePrecise := by
  have hfaulted : ∀ (p : Config.Params) (s t : State) (o : StepOutcome) (c : FaultCode),
      s.fault = none → engine p s = .next (t, o) → t.fault = some c →
      stepWith p s = .next t ∧ t = { s with fault := some c } ∧ t.faultInfo = some (c, s.pc) ∧
        o = { frameChanged := false, unknown := none, waiting := false, soundEnd := false,
              fault := some c } := by
    intro p s t o c hf h ht
    refine ⟨stepWith_of_engine h, ?_⟩
    cases engine_raises hf h ht
    exact ⟨rfl, rfl, rfl⟩
  refine ⟨fun s t c hf h ht => ?_, hfaulted⟩
  obtain ⟨o, ho⟩ := engine_of_step h
  obtain ⟨-, heq, hinfo, -⟩ := hfaulted Config.params s t o c hf ho ht
  exact ⟨heq, hinfo⟩

/-- The instructions that draw (40_engine.md R109). -/
theorem drawsFrame_iff : drawsFrame i = true ↔ i = .cls ∨ ∃ x y n, i = .drw x y n := by
  cases i with
  | cls => exact ⟨fun _ => .inl rfl, fun _ => rfl⟩
  | drw x y n => exact ⟨fun _ => .inr ⟨x, y, n, rfl⟩, fun _ => rfl⟩
  | _ => simp [drawsFrame]

/-- A state that executes i executes nothing else. -/
theorem executes_iff_eq (hi : s.Executes i) (j : Instr) : s.Executes j ↔ i = j :=
  ⟨executes_unique hi, fun h => h ▸ hi⟩

/-- Settles O13: an answer without a fault is a key-wait cycle, an Unknown word or an instruction that
completed, and its Outcome is the one `finish` reports. -/
theorem outcomeOfANonFaultingStep : Obligations.OutcomeOfANonFaultingStep := by
  intro s t o h ht
  generalize hr : (t, o) = r at h
  have hsound : ∀ u : State, (s.st != 0 && u.tick.st == 0) = true ↔ s.st ≠ 0 ∧ u.tick.st = 0 := by
    simp
  cases answer_of_engine h with
  | inFault hf =>
    cases hr
    exact nomatch hf.symm.trans ht
  | fetchFault | instrFault =>
    cases hr
    exact nomatch ht
  | inWait hf hw =>
    cases hr
    have hno : ∀ i, ¬ s.Executes i := fun i hi => nomatch hw.symm.trans hi.2.1
    exact ⟨by simp [hno], by simp [hw], Option.isSome_iff_ne_none, hsound _, rfl⟩
  | unknownWord hf hw hc hd =>
    cases hr
    have hno : ∀ i, ¬ s.Executes i := fun i hi => nomatch hd.symm.trans hi.2.2.2
    have hd' : decode s.fetchWord = none := hd
    refine ⟨by simp [hno], fun a w => ?_, Option.isSome_iff_ne_none, hsound _, rfl⟩
    simp [hw, hd', eq_comm]
  | instrDone hf hw hc hd =>
    cases hr
    have hd' : decode s.fetchWord = some _ := hd
    refine ⟨?_, by simp [hd'], Option.isSome_iff_ne_none, hsound _, rfl⟩
    simp only [executes_iff_eq ⟨hf, hw, hc, hd⟩]
    exact drawsFrame_iff

/-! ### Faults -/

/-- Sampling the inputs does not change the condition of a fault. -/
theorem raises_sample : Raises s.sample i c ↔ Raises s i c := by
  cases i <;> exact Iff.rfl

/-- The step from a state with no fault ends in the fault c exactly where its fetch is out of range and
c says so, or the instruction it executes meets the condition of c. -/
theorem step_fault_iff (hf : s.fault = none) (h : step s = .next t) :
    t.fault = some c ↔
      (c = .fetchOutOfRange ∧ s.wait = none ∧ s.canFetch = false) ∨
        ∃ i, s.Executes i ∧ Raises s i c := by
  obtain ⟨_, hf', -⟩ | ⟨_, -, hw, rfl⟩ | ⟨-, hw, hc, rfl⟩ | ⟨-, hw, hc, hd, rfl⟩ |
    ⟨i, u, _, hi, he, hu, rfl⟩ | ⟨i, u, hi, he, hu, rfl⟩ := step_cases h
  · exact nomatch hf.symm.trans hf'
  · simp [State.Executes, hf, hw]
  · simp [State.Executes, hw, hc, eq_comm]
  · simp [State.Executes, hf, hc, hd]
  · have hiff := (exec_fault_iff (c := c) (s := s.sample) hf he).trans raises_sample
    obtain ⟨-, -, hc, -⟩ := id hi
    simp [executes_iff_eq hi, hc, ← hiff, hu]
  · have hiff := (exec_fault_iff (c := c) (s := s.sample) hf he).trans raises_sample
    obtain ⟨-, -, hc, -⟩ := id hi
    simp [executes_iff_eq hi, hc, ← hiff]

/-- No instruction raises the fault of the fetch. -/
theorem not_raises_fetchOutOfRange : ¬ Raises s i .fetchOutOfRange := by
  cases i <;> exact id

/-- `step_fault_iff` for the fault of the fetch (40_engine.md R101). -/
theorem step_fetchFault_iff (hf : s.fault = none) (h : step s = .next t) :
    t.fault = some .fetchOutOfRange ↔ s.wait = none ∧ 0xFFE < s.pc.toNat := by
  have hc : s.canFetch = false ↔ 0xFFE < s.pc.toNat :=
    s.canFetch_eq_false_iff.trans Nat.succ_lt_succ_iff
  simp [step_fault_iff hf h, not_raises_fetchOutOfRange, hc]

/-- `step_fault_iff` for the fault of an instruction. -/
theorem step_instrFault_iff (hf : s.fault = none) (h : step s = .next t) (hc : c ≠ .fetchOutOfRange) :
    t.fault = some c ↔ ∃ i, s.Executes i ∧ Raises s i c := by
  simp [step_fault_iff hf h, hc]

/-- Settles O15: each clause is `step_fault_iff` at its code, and the instructions that have the code are
those the clause names. -/
theorem faultsHappenExactlyWhen : Obligations.FaultsHappenExactlyWhen := by
  intro s hf
  obtain ⟨t, ht⟩ := step_answers s
  refine ⟨t, ht, step_fetchFault_iff hf ht, ?_, ?_, ?_, ?_, ?_⟩ <;>
    rw [step_instrFault_iff hf ht (by decide)]
  · constructor
    · rintro ⟨i, hi, hr⟩
      cases i with
      | call nnn => exact ⟨nnn, hi, hr⟩
      | _ => exact hr.elim
    · rintro ⟨nnn, hi, hr⟩
      exact ⟨.call nnn, hi, hr⟩
  · constructor
    · rintro ⟨i, hi, hr⟩
      cases i with
      | ret => exact ⟨hi, hr⟩
      | _ => exact hr.elim
    · rintro ⟨hi, hr⟩
      exact ⟨.ret, hi, hr⟩
  · constructor
    · rintro ⟨i, hi, hr⟩
      cases i with
      | ldBX x => exact .inl ⟨x, hi, hr⟩
      | ldMemX x => exact .inr (.inl ⟨x, .inl hi, hr⟩)
      | ldXMem x => exact .inr (.inl ⟨x, .inr hi, hr⟩)
      | drw x y n => exact .inr (.inr ⟨x, y, n, hi, hr⟩)
      | _ => exact hr.elim
    · rintro (⟨x, hi, hr⟩ | ⟨x, hi | hi, hr⟩ | ⟨x, y, n, hi, hr⟩)
      · exact ⟨.ldBX x, hi, hr⟩
      · exact ⟨.ldMemX x, hi, hr⟩
      · exact ⟨.ldXMem x, hi, hr⟩
      · exact ⟨.drw x y n, hi, hr⟩
  · constructor
    · rintro ⟨i, hi, hr⟩
      cases i with
      | drw x y n => exact ⟨x, y, n, hi, hr⟩
      | _ => exact hr.elim
    · rintro ⟨x, y, n, hi, hr⟩
      exact ⟨.drw x y n, hi, hr⟩
  · constructor
    · rintro ⟨i, hi, hr⟩
      cases i with
      | skp x => exact ⟨x, .inl hi, hr⟩
      | sknp x => exact ⟨x, .inr hi, hr⟩
      | _ => exact hr.elim
    · rintro ⟨x, hi | hi, hr⟩
      · exact ⟨.skp x, hi, hr⟩
      · exact ⟨.sknp x, hi, hr⟩

/-! ### The named cases of a step -/

/-- Settles O5: the bytes decode as `State.Executes` says, and the step settles what `exec` answers. -/
theorem stepRunsTheDecodedInstruction : Obligations.StepRunsTheDecodedInstruction := by
  intro s t i hf hw hpc hdec hexec
  have hd : decode s.fetchWord = some i := by
    cases hd : decodeWith Config.params s.fetchWord with
    | some j =>
      simp only [State.fetchWord] at hd
      simp only [decodeBytes, hd, Except.ok.injEq, Prod.mk.injEq, and_true] at hdec
      exact hd.trans (congrArg some hdec)
    | none =>
      simp only [State.fetchWord] at hd
      simp [decodeBytes, hd] at hdec
  have hi : s.Executes i := ⟨hf, hw, decide_eq_true hpc, hd⟩
  have hstep : step s = .next (settle s t (drawsFrame i)).1 :=
    stepWith_of_engine (engine_of_executes hi hexec)
  rw [hstep]
  cases ht : t.fault with
  | none => rw [settle_next s t _ ht]; rfl
  | some c => rw [settle_fault s t _ c ht]; rfl

/-- The tick takes a timer to 0 from 1 and leaves it there from 0 (40_engine.md R108). -/
theorem tickTimer_eq_zero_iff (b : Byte) : tickTimer b = 0 ↔ b.toNat ≤ 1 := by
  rw [← BitVec.toNat_inj, toNat_tickTimer]
  change _ = 0 ↔ _
  omega

/-- The sound timer goes from nonzero to zero in a tick exactly from 1 (40_engine.md R109; D21). -/
theorem soundEnd_of_tick (b : Byte) : (b != 0 && tickTimer b == 0) = true ↔ b = 1 := by
  rw [Bool.and_eq_true, bne_iff_ne, beq_iff_eq, tickTimer_eq_zero_iff]
  bv_omega

/-- Settles O7: the engine's answer is the tick of `execUnknown` on the sampled state. -/
theorem unknownWordIsPassedOver : Obligations.UnknownWordIsPassedOver := by
  intro p s hf hw hpc hd
  have hengine := engine_unknown p s hf hw (decide_eq_true hpc) hd
  have hwait : s.wait.isSome = false := hw ▸ rfl
  exact ⟨_, _, hengine, stepWith_of_engine hengine, rfl, toNat_tickTimer s.dt, toNat_tickTimer s.st,
    rfl, rfl, hwait, soundEnd_of_tick s.st, rfl⟩

/-- Settles O8: the engine's answer in the fault state is `halted`. -/
theorem faultStateIsSticky : Obligations.FaultStateIsSticky := by
  intro s c hf
  have hengine := engine_fault Config.params s c hf
  exact ⟨stepWith_of_engine hengine, hengine⟩

/-! ### The key-wait -/

/-- With no key in the snapshot no key is taken. -/
theorem State.anyKey_eq_false {s : State} (h : s.keys = 0) : s.anyKey = false := by
  simp [State.anyKey, h]

/-- Taking the lowest pressed key writes its number to V[x] and no other register
(46_timers_keys.md R236; D9). -/
theorem State.takeKey_v_of_pressed (s : State) (x r : Reg) {k : Nat} (hk : k < 16)
    (h : s.keys.getLsbD k = true) (hl : ∀ j < k, s.keys.getLsbD j = false) :
    (s.takeKey x).v[r] = if r = x then BitVec.ofNat 8 k else s.v[r] := by
  rw [State.takeKey_v, if_pos (anyKey_of_pressed s k h), lowestKey_eq s k hk h hl]
  rw [show (s.v.set x (BitVec.ofNat 8 k))[r] = (s.setV x (BitVec.ofNat 8 k)).getV r from rfl,
    State.getV_setV]
  simp [State.getV, eq_comm]

/-- Settles O9: the cycle takes the lowest pressed key, or none. -/
theorem keyWaitCycle : Obligations.KeyWaitCycle := by
  intro s x hf hw
  have hengine := engine_wait Config.params s x hf hw
  refine ⟨_, stepWith_of_engine hengine, rfl, toNat_tickTimer s.dt, toNat_tickTimer s.st,
    fun h0 => ?_, fun k hk h hl => ?_⟩
  · have hany : s.sample.anyKey = false := State.anyKey_eq_false h0
    simp [finish, hany, hw]
  · have hany : s.sample.anyKey = true := anyKey_of_pressed s.sample k h
    exact ⟨if_pos hany, if_pos hany, fun r => s.sample.takeKey_v_of_pressed x r hk h hl⟩

/-! ### The keys of a step -/

/-- Settles O12: a step that does not fault keeps the sampled keys to its end. -/
theorem keysAreTheStepsSnapshot : Obligations.KeysAreTheStepsSnapshot := by
  refine ⟨fun s t h => ⟨fun ht => ?_, fun ht => ?_⟩, fun _ _ _ h => (exec_keeps_inputs h).1⟩
  · obtain ⟨_, hf, rfl⟩ | ⟨_, _, _, rfl⟩ | ⟨_, _, _, rfl⟩ | ⟨_, _, _, _, rfl⟩ |
      ⟨_, _, _, _, _, _, rfl⟩ | ⟨i, u, _, he, _, rfl⟩ := step_cases h
    · exact nomatch hf.symm.trans ht
    · rfl
    · exact nomatch ht
    · rfl
    · exact nomatch ht
    · exact (exec_keeps_inputs he).1
  · rw [step_fault_eq h ht]

end Sys2Proof.Machine
end


section
/-! PROOFS. The invariant of the block, kept piece by piece: memory stays canonical, pc in range, and every
stack entry the address of a CALL (10_state.md section 3; 20_memory.md R60; 41_flow.md R121). -/
namespace Sys2Proof.Machine

variable {s t : State} {i : Instr}

/-! ### Memory -/

/-- A store whose bytes are all in memory keeps the canonical form (20_memory.md R58). -/
theorem Memory.wf_store {bs : List Byte} (hm : Memory.wf s.mem) (hr : s.reaches bs.length = true) :
    Memory.wf (s.mem.writeBytes s.base bs) := by
  refine Memory.wf_writeBytes bs s.mem s.base ?_ hm
  rw [← List.length_eq_zero_iff]
  exact (s.reaches_iff bs.length).1 hr

/-- Every instruction keeps memory canonical: only FX33 and FX55 write it, after their check. -/
theorem exec_keeps_wf (hm : Memory.wf s.mem) (h : exec i s = .next t) : Memory.wf t.mem := by
  cases i with
  | ldBX x =>
    obtain ⟨hr, rfl⟩ | ⟨-, rfl⟩ := exec_ldBX_iff.1 h
    · exact Memory.wf_store hm hr
    · exact hm
  | ldMemX x =>
    obtain ⟨hr, rfl⟩ | ⟨-, rfl⟩ := exec_ldMemX_iff.1 h
    · exact Memory.wf_store hm (by rwa [State.length_firstRegs])
    · exact hm
  | _ =>
    rw [exec_keeps_mem h (by simp)]
    exact hm

/-! ### pc -/

/-- One instruction further, where pc can be fetched at: no wrap (10_state.md R27). -/
theorem toNat_add_two {a : Word} (ha : a.toNat ≤ 0xFFE) : (a + 2).toNat = a.toNat + 2 := by
  bv_omega

theorem toNat_add_four {a : Word} (ha : a.toNat ≤ 0xFFE) : (a + 4).toNat = a.toNat + 4 := by
  bv_omega

/-- pc after an instruction fetched in range is at most 0x10FE: a control transfer goes to NNN, to NNN + V0
or past a stack entry, and any other instruction moves on by at most 4 (10_state.md R27). -/
theorem exec_pc_le (hstack : ∀ j : Fin 16, s.stack[j].toNat ≤ 0xFFE) (hpc : s.pc.toNat ≤ 0xFFE)
    (h : exec i s = .next t) : t.pc.toNat ≤ 0x10FE := by
  have hpc2 := toNat_add_two hpc
  have hpc4 := toNat_add_four hpc
  obtain ⟨c, -, rfl⟩ | ⟨-, -, hmove⟩ := exec_cases h
  · exact hpc.trans (by decide)
  cases i with
  | jp nnn =>
    cases h
    exact (toNat_zext16 nnn).trans_le (by omega)
  | jpV0 nnn =>
    cases h
    exact (toNat_zext16_add_zeroExtend nnn s.v[0]).trans_le (addr_add_byte_le nnn s.v[0])
  | call nnn =>
    obtain ⟨-, rfl⟩ | ⟨-, rfl⟩ := exec_call_iff.1 h
    · exact (toNat_zext16 nnn).trans_le (by omega)
    · exact hpc.trans (by decide)
  | ret =>
    obtain ⟨hsp, rfl⟩ | ⟨-, rfl⟩ := exec_ret_iff.1 h
    · have htop : (s.top hsp).toNat ≤ 0xFFE := hstack ⟨s.sp.val - 1, by omega⟩
      exact (toNat_add_two htop).trans_le (by omega)
    · exact hpc.trans (by decide)
  | seImm | sneImm | seReg | sneReg | skp | sknp =>
    obtain hp | hp := hmove
    · rw [hp]; omega
    · rw [hp]; omega
  | ldXK =>
    obtain hp | rfl := hmove
    · rw [hp]; omega
    · exact hpc.trans (by decide)
  | _ =>
    rw [show t.pc = s.pc + 2 from hmove]
    omega

/-- An instruction that leaves the key-wait entered is an FX0A, and holds pc (46_timers_keys.md R236). -/
theorem exec_enters_wait (hw : s.wait = none) (h : exec i s = .next t) (ht : t.wait ≠ none) :
    t.pc = s.pc := by
  cases i with
  | ldXK x =>
    obtain ⟨-, rfl⟩ | ⟨-, rfl⟩ := exec_ldXK_cases h
    · exact absurd hw ht
    · rfl
  | _ => exact absurd ((exec_keeps_wait h (by simp)).trans hw) ht

/-! ### The stack -/

/-- CALL stores its own address, and no other instruction writes an entry (41_flow.md R123). -/
theorem exec_stack_le (hstack : ∀ j : Fin 16, s.stack[j].toNat ≤ 0xFFE) (hpc : s.pc.toNat ≤ 0xFFE)
    (h : exec i s = .next t) (j : Fin 16) : t.stack[j].toNat ≤ 0xFFE := by
  cases i with
  | call nnn =>
    obtain ⟨hsp, rfl⟩ | ⟨-, rfl⟩ := exec_call_iff.1 h
    · change (s.stack.set s.sp.val s.pc)[j.val].toNat ≤ 0xFFE
      rw [Vector.getElem_set]
      split
      · exact hpc
      · exact hstack j
    · exact hstack j
  | _ =>
    rw [exec_keeps_stack h (by simp)]
    exact hstack j

/-! ### The invariant -/

/-- An instruction fetched in range, outside the key-wait, keeps the invariant. -/
theorem exec_keeps_inv (hs : Inv s) (hw : s.wait = none) (hc : s.canFetch = true)
    (h : exec i s = .next t) : Inv t := by
  have hpc : s.pc.toNat ≤ 0xFFE := of_decide_eq_true hc
  exact {
    mem := exec_keeps_wf hs.mem h
    pc := exec_pc_le hs.stack hpc h
    waitPc := fun ht => (exec_enters_wait hw h ht).symm ▸ hpc
    stack := exec_stack_le hs.stack hpc h }

/-- The key-wait cycle moves pc on from the FX0A it holds, or leaves it there (40_engine.md R107). -/
theorem keyWaitCycle_keeps_inv {x : Reg} (hs : Inv s) (hw : s.wait = some x) :
    Inv (s.keyWaitCycle x) := by
  have hpc : s.pc.toNat ≤ 0xFFE := hs.waitPc (by simp [hw])
  have hnext := toNat_add_two hpc
  cases hk : s.anyKey with
  | true =>
    refine { mem := hs.mem, pc := ?_, waitPc := ?_, stack := hs.stack }
    · rw [State.keyWaitCycle_pc, if_pos hk]
      omega
    · simp [hk]
  | false =>
    have hsame : (s.keyWaitCycle x).pc = s.pc := by simp [hk]
    exact { mem := hs.mem, pc := hsame ▸ hs.pc, waitPc := fun _ => hsame ▸ hpc, stack := hs.stack }

/-- The invariant speaks of memory, pc, the key-wait and the stack alone, so sampling the inputs,
the timer tick and raising a fault keep it. -/
theorem Inv.of_eq (hs : Inv s) (hmem : t.mem = s.mem) (hpc : t.pc = s.pc) (hwait : t.wait = s.wait)
    (hstack : t.stack = s.stack) : Inv t where
  mem := hmem ▸ hs.mem
  pc := hpc ▸ hs.pc
  waitPc := by rw [hpc, hwait]; exact hs.waitPc
  stack := by rw [hstack]; exact hs.stack

theorem Inv.sample (hs : Inv s) : Inv s.sample := hs.of_eq rfl rfl rfl rfl

theorem Inv.tick (hs : Inv s) : Inv s.tick := hs.of_eq rfl rfl rfl rfl

theorem Inv.raise (hs : Inv s) (c : FaultCode) : Inv (s.raise c) := hs.of_eq rfl rfl rfl rfl

/-- Settles O17: each phase of a step keeps the invariant. -/
theorem stepKeepsTheInvariant : Obligations.StepKeepsTheInvariant := by
  intro s t hs h
  obtain ⟨_, _, rfl⟩ | ⟨x, _, hw, rfl⟩ | ⟨_, _, _, rfl⟩ | ⟨_, hw, hc, _, rfl⟩ |
    ⟨_, _, c, _, _, _, rfl⟩ | ⟨i, u, ⟨_, hw, hc, _⟩, he, _, rfl⟩ := step_cases h
  · exact hs
  · exact (keyWaitCycle_keeps_inv hs.sample hw).tick
  · exact hs.raise _
  · exact (exec_keeps_inv (i := .sys 0) hs.sample hw hc rfl).tick
  · exact hs.raise c
  · exact (exec_keeps_inv hs.sample hw hc he).tick

/-- Settles O18: memory lists nothing, pc is 0x200 and every stack entry is 0. -/
theorem resetMeetsTheInvariant : Obligations.ResetMeetsTheInvariant where
  mem := ⟨List.Pairwise.nil, by simp [State.reset]⟩
  pc := by decide
  waitPc := by decide
  stack := by decide

end Sys2Proof.Machine
end

section
/-! PROOFS. Runs: what a run without certain instructions keeps, the timers over it, and the round trip of a
CALL and its RET (46_timers_keys.md; 41_flow.md). -/
namespace Sys2Proof.Machine

variable {s t : State} {i : Instr}

/-- A run of k + 1 steps is a step and a run of k. -/
theorem trace_succ_iff {k : Nat} {l : List State} : trace (k + 1) s = some (l, t) ↔
    ∃ v m, step s = .next v ∧ trace k v = some (m, t) ∧ l = s :: m := by
  obtain ⟨v, hv⟩ := step_answers s
  simp only [trace, hv, Option.map_eq_some_iff, Prod.exists, Prod.mk.injEq, Host.Outcome.next.injEq]
  constructor
  · rintro ⟨m, u, hm, rfl, rfl⟩
    exact ⟨v, m, rfl, hm, rfl⟩
  · rintro ⟨_, m, rfl, hm, rfl⟩
    exact ⟨m, t, hm, rfl, rfl⟩

/-- What the steps of a run's own states keep, the run keeps to its end. -/
theorem trace_keeps_to_end {P Q : State → Prop}
    (hP : ∀ s t, Q s → P s → step s = .next t → P t) (k : Nat) {s t : State} {l : List State}
    (h : trace k s = some (l, t)) (hQ : ∀ u ∈ l, Q u) (hs : P s) : P t := by
  induction k generalizing s l with
  | zero =>
    cases h
    exact hs
  | succ k ih =>
    obtain ⟨v, m, hv, hm, rfl⟩ := trace_succ_iff.1 h
    obtain ⟨hQs, hQm⟩ := List.forall_mem_cons.1 hQ
    exact ih hm hQm (hP s v hQs hs hv)

/-- A run whose states are fault-free, its end too, begins in a fault-free state, whatever its length. -/
theorem fault_of_trace {k : Nat} {l : List State} (h : trace k s = some (l, t))
    (hl : ∀ u ∈ l, u.fault = none) (ht : t.fault = none) : s.fault = none := by
  cases k with
  | zero =>
    cases h
    exact ht
  | succ k =>
    obtain ⟨v, m, -, -, rfl⟩ := trace_succ_iff.1 h
    exact hl s List.mem_cons_self

/-- Settles O11: by induction on the run, each step of which takes 1 from each timer. -/
theorem timersOverARun : Obligations.TimersOverARun := by
  intro k
  induction k with
  | zero =>
    intro s t l h _ _ _
    cases h
    simp
  | succ k ih =>
    intro s t l h hl ht hno
    obtain ⟨v, m, hv, hm, rfl⟩ := trace_succ_iff.1 h
    obtain ⟨-, hl'⟩ := List.forall_mem_cons.1 hl
    obtain ⟨hnos, hno'⟩ := List.forall_mem_cons.1 hno
    have hvf : v.fault = none := fault_of_trace hm hl' ht
    obtain ⟨-, -, -, hdt, hst⟩ := (timersTickOncePerStep s v hv).2 hvf
    obtain ⟨ihdt, ihst⟩ := ih v t m hm hl' ht hno'
    have hdt' := hdt fun x => (hnos x).1
    have hst' := hst fun x => (hnos x).2
    omega

/-- A step that executes neither CALL nor RET keeps the call stack (10_state.md R32). -/
theorem step_keeps_stack (h : step s = .next t) (hret : ¬ s.Executes .ret)
    (hcall : ∀ m, ¬ s.Executes (.call m)) : t.stack = s.stack ∧ t.sp = s.sp := by
  obtain ⟨_, _, rfl⟩ | ⟨_, _, _, rfl⟩ | ⟨_, _, _, rfl⟩ | ⟨_, _, _, _, rfl⟩ | ⟨_, _, _, _, _, _, rfl⟩ |
    ⟨i, u, hi, he, _, rfl⟩ := step_cases h
  · exact ⟨rfl, rfl⟩
  · exact ⟨rfl, rfl⟩
  · exact ⟨rfl, rfl⟩
  · exact ⟨rfl, rfl⟩
  · exact ⟨rfl, rfl⟩
  · have hcall' : ∀ m, i ≠ .call m := fun m e => hcall m (e ▸ hi)
    have hret' : i ≠ .ret := fun e => hret (e ▸ hi)
    exact ⟨(exec_keeps_stack he hcall' :), (exec_keeps_sp he hcall' hret' :)⟩

/-- A step that executes i and does not fault leaves what i left, a tick later. -/
theorem exec_of_step (hi : s.Executes i) (h : step s = .next t) (ht : t.fault = none) :
    ∃ u, exec i s.sample = .next u ∧ t = u.tick := by
  obtain ⟨u, he⟩ := exec_answers i s.sample
  refine ⟨u, he, ?_⟩
  have hstep : step s = .next (settle s u (drawsFrame i)).1 :=
    stepWith_of_engine (engine_of_executes hi he)
  cases h.symm.trans hstep
  cases hu : u.fault with
  | none => exact settle_next s u _ hu ▸ rfl
  | some c =>
    rw [settle_fault s u _ c hu] at ht
    exact nomatch ht

/-- The step of a CALL with room on the stack (41_flow.md R123). -/
theorem step_call {nnn : Addr12} (h : s.Executes (.call nnn)) (hsp : s.sp.val < 16) :
    step s = .next ((s.sample.push s.pc hsp).setPc (zext16 nnn)).tick :=
  step_of_executes h (exec_call_iff.2 (.inl ⟨hsp, rfl⟩)) h.1

/-- The step of a RET with an entry to pop (41_flow.md R121). -/
theorem step_ret (h : s.Executes .ret) (hsp : 0 < s.sp.val) :
    step s = .next (s.sample.pop.setPc (s.top hsp + 2)).tick :=
  step_of_executes h (exec_ret_iff.2 (.inl ⟨hsp, rfl⟩)) h.1

/-- Settles O30: the run keeps the stack that the CALL left, and the RET pops what the CALL pushed. -/
theorem callThenRetComesBack : Obligations.CallThenRetComesBack := by
  intro k s t u nnn l hi hsp ht htrace hno hret
  cases ht.symm.trans (step_call hi hsp)
  have hkeeps : ∀ w w' : State, (¬ w.Executes .ret ∧ ∀ m, ¬ w.Executes (.call m)) →
      (w.stack = s.stack.set s.sp.val s.pc ∧ w.sp.val = s.sp.val + 1) → step w = .next w' →
      (w'.stack = s.stack.set s.sp.val s.pc ∧ w'.sp.val = s.sp.val + 1) := by
    rintro w w' ⟨hnoret, hnocall⟩ hw hstep
    obtain ⟨hst, hspw⟩ := step_keeps_stack hstep hnoret hnocall
    rwa [hst, hspw]
  obtain ⟨hstack, husp⟩ := trace_keeps_to_end hkeeps k htrace hno ⟨rfl, rfl⟩
  have hpos : 0 < u.sp.val := husp ▸ Nat.succ_pos _
  have htop : u.top hpos = s.pc := by simp [State.top, hstack, husp]
  refine ⟨_, step_ret hret hpos, hret.1, congrArg (· + 2) htop, Fin.ext ?_⟩
  change u.sp.val - 1 = s.sp.val
  omega

/-- A step past the last address a fetch can start at, by an instruction that does not wait, leaves a
state whose own step faults at its fetch (40_engine.md R101). -/
theorem step_faults_past_top (hf : t.fault = none) (hw : t.wait = none) (hpc : 0x1000 ≤ t.pc.toNat) :
    step t = .next { t with fault := some .fetchOutOfRange } :=
  step_no_fetch hf hw (t.canFetch_eq_false_iff.2 (by omega))

/-- Settles O33: a step that moves pc by 4 has not faulted, and none of the six enters the key-wait. -/
theorem skipPastTheTopFaultsAtTheNextFetch : Obligations.SkipPastTheTopFaultsAtTheNextFetch := by
  intro s t i hi hskip h hpc htop
  have hle : s.pc.toNat ≤ 0xFFE := of_decide_eq_true hi.2.2.1
  have hpc' : t.pc.toNat = s.pc.toNat + 4 := hpc ▸ toNat_add_four hle
  have hf : t.fault = none := by
    by_contra hne
    have heq : t.pc = s.pc := (congrArg State.pc (step_fault_eq h hne) :)
    rw [heq] at hpc'
    omega
  have hwait : ∀ x, i ≠ .ldXK x := by
    rintro x rfl
    simp at hskip
  have hw : t.wait = none := by
    obtain ⟨u, he, rfl⟩ := exec_of_step hi h hf
    exact (exec_keeps_wait he hwait).trans hi.2.1
  have hbound : 0x1000 ≤ t.pc.toNat := by omega
  exact ⟨hf, hbound, step_faults_past_top hf hw hbound⟩

end Sys2Proof.Machine
end


section
/-! PROOFS. Stores and loads through I: the bytes each moves, the bytes it leaves, and the fetch after a store
(44_index_memory.md R192 to R200; 20_memory.md section 6). -/
namespace Sys2Proof.Machine

variable {s t : State} {i : Instr} {bs : List Byte}

/-! ### A store at A -/

/-- Byte k of a store at A is at A + k (20_memory.md R57). -/
theorem Memory.read_store_at (hm : Memory.wf s.mem) (hb : s.base + bs.length ≤ Memory.size) {k : Nat}
    (hk : k < bs.length) : (s.mem.writeBytes s.base bs).read (s.base + k) = bs.getD k 0 := by
  rw [Memory.read_writeBytes bs s.mem s.base _ hb hm, if_pos (by omega), Nat.add_sub_cancel_left]

/-- A store leaves every byte outside it (20_memory.md section 4). -/
theorem Memory.read_store_outside (hm : Memory.wf s.mem) (hb : s.base + bs.length ≤ Memory.size)
    {a : Nat} (ha : a < s.base ∨ s.base + bs.length ≤ a) :
    (s.mem.writeBytes s.base bs).read a = s.mem.read a := by
  rw [Memory.read_writeBytes bs s.mem s.base _ hb hm, if_neg (by omega)]

/-- A number below 256 is the byte made of it. -/
theorem toNat_ofNat_byte {k : Nat} (h : k < 256) : (BitVec.ofNat 8 k).toNat = k :=
  (BitVec.toNat_ofNat _ _).trans (Nat.mod_eq_of_lt h)

/-- The digits of FX33 as numbers: hundreds, tens, units (44_index_memory.md R196). -/
theorem toNat_decimalDigits (a : Byte) :
    ((decimalDigits a).getD 0 0).toNat = a.toNat / 100 ∧
      ((decimalDigits a).getD 1 0).toNat = a.toNat / 10 % 10 ∧
      ((decimalDigits a).getD 2 0).toNat = a.toNat % 10 := by
  have ha := a.isLt
  exact ⟨toNat_ofNat_byte (by omega), toNat_ofNat_byte (by omega), toNat_ofNat_byte (by omega)⟩

/-- Settles O23: FX33 and FX55 store their bytes at A, and no other instruction writes memory. -/
theorem storesTouchOnlyTheirBytes : Obligations.StoresTouchOnlyTheirBytes := by
  intro i s t hm h a
  cases i with
  | ldBX x =>
    intro ha
    obtain ⟨hr, rfl⟩ | ⟨-, rfl⟩ := exec_ldBX_iff.1 h
    · have hb := (s.reaches_iff 3).1 hr
      exact Memory.read_store_outside (bs := decimalDigits (s.getV x)) hm (hb.resolve_left (by decide))
        (ha.imp_right Nat.succ_le_of_lt)
    · rfl
  | ldMemX x =>
    intro ha
    obtain ⟨hr, rfl⟩ | ⟨-, rfl⟩ := exec_ldMemX_iff.1 h
    · have hb := (s.reaches_iff (x.val + 1)).1 hr
      rw [← State.length_firstRegs s x] at hb
      refine Memory.read_store_outside hm (hb.resolve_left (by simp)) ?_
      rw [State.length_firstRegs]
      exact ha.imp_right Nat.succ_le_of_lt
    · rfl
  | _ => exact congrArg (Memory.read · a) (exec_keeps_mem h (by simp))

/-- An access to A up to A + n that is in memory passes the data check (20_memory.md R58). -/
theorem State.reaches_succ {n : Nat} (h : s.base + n ≤ 0xFFF) : s.reaches (n + 1) = true :=
  (s.reaches_iff (n + 1)).2 (.inr (Nat.succ_le_succ h))

/-- Settles O43: the store of the three digits, or the fault of its check. -/
theorem decimalStore : Obligations.DecimalStore := by
  intro s x hm
  refine ⟨fun hle => ?_, fun hlt => exec_raises (i := .ldBX x) (c := .dataOutOfRange) hlt⟩
  have hb : s.base + (decimalDigits s.v[x]).length ≤ Memory.size := Nat.succ_le_succ hle
  obtain ⟨h0, h1, h2⟩ := toNat_decimalDigits s.v[x]
  refine ⟨_, exec_ldBX_iff.2 (.inl ⟨State.reaches_succ hle, rfl⟩), rfl, ?_, ?_, ?_, fun a ha => ?_⟩
  · exact (congrArg BitVec.toNat (Memory.read_store_at hm hb (show 0 < 3 by decide))).trans h0
  · exact (congrArg BitVec.toNat (Memory.read_store_at hm hb (show 1 < 3 by decide))).trans h1
  · exact (congrArg BitVec.toNat (Memory.read_store_at hm hb (show 2 < 3 by decide))).trans h2
  · exact Memory.read_store_outside hm hb (ha.imp_right Nat.succ_le_of_lt)

/-- I past the X + 1 bytes of an access in memory: the sum is exact (44_index_memory.md R198, R200). -/
theorem State.toNat_bumpI {x : Reg} (h : s.base + x.val ≤ 0xFFF) :
    (s.bumpI x).i.toNat = s.base + x.val + 1 := by
  rw [State.bumpI_eq, State.setI_i, BitVec.toNat_ofNat, Nat.mod_eq_of_lt (by omega)]

/-- Settles O44: the store of V0 to VX, or the fault of its check. -/
theorem registerStore : Obligations.RegisterStore := by
  intro s x hm
  refine ⟨fun hle => ?_, fun hlt => exec_raises (i := .ldMemX x) (c := .dataOutOfRange) hlt⟩
  have hlen := s.length_firstRegs x
  have hb : s.base + (s.firstRegs x).length ≤ Memory.size := by
    rw [hlen]
    exact Nat.succ_le_succ hle
  refine ⟨_, exec_ldMemX_iff.2 (.inl ⟨State.reaches_succ hle, rfl⟩), rfl, State.toNat_bumpI (s := s) hle,
    fun j hj => ?_, fun a ha => ?_⟩
  · exact (Memory.read_store_at hm hb (by rw [hlen]; exact Nat.lt_succ_of_le hj)).trans
      (s.getD_firstRegs x j.val hj)
  · refine Memory.read_store_outside hm hb ?_
    rw [hlen]
    exact ha.imp_right Nat.succ_le_of_lt

/-- Settles O45: the load of V0 to VX, or the fault of its check. -/
theorem registerLoad : Obligations.RegisterLoad := by
  intro s x
  refine ⟨fun hle => ?_, fun hlt => exec_raises (i := .ldXMem x) (c := .dataOutOfRange) hlt⟩
  refine ⟨_, exec_ldXMem_iff.2 (.inl ⟨State.reaches_succ hle, rfl⟩), rfl, State.toNat_bumpI (s := s) hle,
    fun j => ?_⟩
  refine (getElem_loadRegs s.mem s.base (x.val + 1) s.v j.val j.isLt).trans ?_
  simp only [Nat.lt_succ_iff, Fin.le_def, Fin.getElem_fin]

/-! ### The fetch after a store -/

/-- The bytes that FX33 or FX55 stores (44_index_memory.md R196, R198). -/
def storedBytes (s : State) : Instr → List Byte
  | .ldBX x => decimalDigits (s.getV x)
  | .ldMemX x => s.firstRegs x
  | _ => []

/-- A step that stores its bytes at A completes, and moves on by one instruction. -/
theorem step_store (hi : s.Executes i) (hstore : ∃ x, i = .ldBX x ∨ i = .ldMemX x)
    (hb : s.base + (storedBytes s i).length ≤ Memory.size) :
    ∃ t, step s = .next t ∧ t.fault = none ∧ t.wait = none ∧ t.pc = s.pc + 2 ∧
      t.mem = s.mem.writeBytes s.base (storedBytes s i) := by
  obtain ⟨x, rfl | rfl⟩ := hstore
  · have hr : s.sample.reaches 3 = true := (s.sample.reaches_iff 3).2 (.inr hb)
    exact ⟨_, step_of_executes hi (exec_ldBX_iff.2 (.inl ⟨hr, rfl⟩)) hi.1, hi.1, hi.2.1, rfl, rfl⟩
  · have hr : s.sample.reaches (x.val + 1) = true :=
      (s.sample.reaches_iff _).2 (.inr (s.length_firstRegs x ▸ hb))
    exact ⟨_, step_of_executes hi (exec_ldMemX_iff.2 (.inl ⟨hr, rfl⟩)) hi.1, hi.1, hi.2.1, rfl, rfl⟩

/-- The bytes O46 numbers are those the instruction stores. -/
theorem storedBytes_of_numbered {n : Nat} {b : Nat → Byte}
    (h : (∃ x, i = .ldBX x ∧ n = 3 ∧ (b 0).toNat = s.v[x].toNat / 100 ∧
        (b 1).toNat = s.v[x].toNat / 10 % 10 ∧ (b 2).toNat = s.v[x].toNat % 10) ∨
      (∃ x, i = .ldMemX x ∧ n = x.val + 1 ∧ ∀ j : Reg, j ≤ x → b j.val = s.v[j])) :
    (∃ x, i = .ldBX x ∨ i = .ldMemX x) ∧ n = (storedBytes s i).length ∧
      ∀ k < n, (storedBytes s i).getD k 0 = b k := by
  obtain ⟨x, rfl, rfl, h0, h1, h2⟩ | ⟨x, rfl, rfl, hj⟩ := h
  · refine ⟨⟨x, .inl rfl⟩, rfl, fun k hk => BitVec.eq_of_toNat_eq ?_⟩
    obtain ⟨d0, d1, d2⟩ := toNat_decimalDigits s.v[x]
    obtain rfl | rfl | rfl : k = 0 ∨ k = 1 ∨ k = 2 := by omega
    · exact d0.trans h0.symm
    · exact d1.trans h1.symm
    · exact d2.trans h2.symm
  · refine ⟨⟨x, .inr rfl⟩, (s.length_firstRegs x).symm, fun k hk => ?_⟩
    have hkx : k ≤ x.val := Nat.le_of_lt_succ hk
    exact (s.getD_firstRegs x k hkx).trans (hj ⟨k, by omega⟩ hkx).symm

/-- Settles O46: the next fetch reads the memory the store left, byte by byte. -/
theorem nextFetchSeesTheStore : Obligations.NextFetchSeesTheStore := by
  intro s i n b hm hi hstore hb
  obtain ⟨hkind, rfl, hbk⟩ := storedBytes_of_numbered hstore
  obtain ⟨t, hstep, hf, hw, hpc, hmem⟩ := step_store hi hkind hb
  have hpcNat : t.pc.toNat = s.pc.toNat + 2 := hpc ▸ toNat_add_two (of_decide_eq_true hi.2.2.1)
  have hin : ∀ k < (storedBytes s i).length, t.mem.read (s.base + k) = b k := fun k hk => by
    rw [hmem, Memory.read_store_at hm hb hk, hbk k hk]
  have hout : ∀ a, a < s.base ∨ s.base + (storedBytes s i).length ≤ a →
      t.mem.read a = s.mem.read a := fun a ha => by
    rw [hmem, Memory.read_store_outside hm hb ha]
  have hfetch : t.fetchWord = wordOfBytes (t.mem.read (s.pc.toNat + 2)) (t.mem.read (s.pc.toNat + 3)) := by
    rw [State.fetchWord, hpcNat]
  refine ⟨t, _, _, hstep, hf, hpc, hin, hfetch, fun k hk e => e ▸ hin k hk, hout _,
    fun k hk e => e ▸ hin k hk, hout _, fun j htop hdec => ?_⟩
  exact ⟨hf, hw, decide_eq_true (by omega), hfetch ▸ hdec⟩

end Sys2Proof.Machine
end


section
/-! PROOFS. The host's actions: the memory a reset and a load leave, the first fetch after a reset, and the
invariant (20_memory.md R52; 70_reset_and_hazards.md R300 to R303). -/
namespace Sys2Proof.Machine

variable {s t : State}

/-! ### Memory after a reset -/

/-- The power-on memory lists nothing. -/
theorem Memory.wf_nil : Memory.wf [] := ⟨List.Pairwise.nil, by simp⟩

theorem length_resetImage (font : Vector Byte 80) (mem0 : Vector Byte 4096) :
    (resetImage font mem0).length = Memory.size := by
  simp [resetImage, Memory.size]

theorem getD_resetImage_font (font : Vector Byte 80) (mem0 : Vector Byte 4096) (a : Fin 80) :
    (resetImage font mem0).getD a.val 0 = font[a] := by
  simp [resetImage, List.getElem?_append]

theorem getD_resetImage_mem0 (font : Vector Byte 80) (mem0 : Vector Byte 4096) (a : Fin 4096)
    (ha : 80 ≤ a.val) : (resetImage font mem0).getD a.val 0 = mem0[a] := by
  simp [resetImage, List.getElem_append, Nat.not_lt.2 ha, Nat.add_sub_cancel' ha]

theorem State.hostReset_mem_wf (font : Vector Byte 80) (mem0 : Vector Byte 4096) (s : State) :
    Memory.wf (s.hostReset font mem0).mem :=
  Memory.wf_writeBytes _ [] 0 (.inr (by rw [length_resetImage, Nat.zero_add])) Memory.wf_nil

/-- A reset writes every address, and an address above memory reads as unlisted. -/
theorem State.hostReset_read (font : Vector Byte 80) (mem0 : Vector Byte 4096) (s : State) (a : Nat) :
    (s.hostReset font mem0).mem.read a =
      if a < Memory.size then (resetImage font mem0).getD a 0 else Memory.unlisted a := by
  have hlen := length_resetImage font mem0
  refine (Memory.read_writeBytes _ [] 0 a (by rw [hlen, Nat.zero_add]) Memory.wf_nil).trans ?_
  simp [hlen]

theorem State.hostReset_read_font (font : Vector Byte 80) (mem0 : Vector Byte 4096) (s : State)
    (a : Fin 80) : (s.hostReset font mem0).mem.read a.val = font[a] := by
  rw [State.hostReset_read, if_pos (a.isLt.trans (by decide)), getD_resetImage_font]

theorem State.hostReset_read_mem0 (font : Vector Byte 80) (mem0 : Vector Byte 4096) (s : State)
    (a : Fin 4096) (ha : 80 ≤ a.val) : (s.hostReset font mem0).mem.read a.val = mem0[a] := by
  rw [State.hostReset_read, if_pos (show a.val < Memory.size from a.isLt), getD_resetImage_mem0 _ _ _ ha]

/-- Above the font an unlisted address reads as 0 (20_memory.md R52). -/
theorem Memory.unlisted_eq_zero {a : Nat} (ha : 80 ≤ a) : Memory.unlisted a = 0 :=
  List.getD_eq_default _ _ ha

/-- Under the default FONT and a zero mem0 the reset image is what addresses read as unlisted. -/
theorem getD_resetImage_default {font : Vector Byte 80} (hfont : font.toList = Config.font) {a : Nat}
    (ha : a < Memory.size) :
    (resetImage font (Vector.replicate 4096 0)).getD a 0 = Memory.unlisted a := by
  by_cases h80 : a < 80
  · refine (getD_resetImage_font font _ ⟨a, h80⟩).trans ?_
    simp [Memory.unlisted, ← hfont, h80]
  · rw [Memory.unlisted_eq_zero (Nat.le_of_not_lt h80)]
    exact (getD_resetImage_mem0 font _ ⟨a, ha⟩ (Nat.le_of_not_lt h80)).trans
      (Vector.getElem_replicate ha)

/-- Settles O58: every address reads its byte of the reset image, and two canonical memories that read the
same are the same. -/
theorem memoryAfterReset : Obligations.MemoryAfterReset := by
  refine ⟨fun font mem0 s => ⟨s.hostReset_mem_wf font mem0, s.hostReset_read_font font mem0,
    s.hostReset_read_mem0 font mem0⟩, fun a => rfl, fun a => Memory.unlisted_eq_zero,
    fun font s hfont => ?_⟩
  refine Memory.eq_of_read _ _ (s.hostReset_mem_wf font _) Memory.wf_nil fun a => ?_
  rw [State.hostReset_read]
  split
  · exact getD_resetImage_default hfont ‹_›
  · rfl

/-! ### The first step after a reset -/

/-- The word fetched after a reset is that of mem0 at 0x200 (70_reset_and_hazards.md R301, R303). -/
theorem State.hostReset_fetchWord (font : Vector Byte 80) (mem0 : Vector Byte 4096) (s : State) :
    (s.hostReset font mem0).fetchWord = wordOfBytes mem0[0x200] mem0[0x201] := by
  have hhi := s.hostReset_read_mem0 font mem0 0x200 (by decide)
  have hlo := s.hostReset_read_mem0 font mem0 0x201 (by decide)
  exact congrArg₂ wordOfBytes hhi hlo

/-- Settles O57: a reset ends the key-wait and the fault, so the next step fetches at 0x200. -/
theorem resetEndsWaitAndFault : Obligations.ResetEndsWaitAndFault := by
  refine ⟨⟨rfl, rfl, rfl, by decide⟩, fun font mem0 s => ?_⟩
  have hfetch := s.hostReset_fetchWord font mem0
  refine ⟨rfl, rfl, rfl, hfetch, fun i hi => ⟨rfl, rfl, rfl, hfetch ▸ hi⟩, fun hd => ?_⟩
  have hengine := engine_unknown Config.params (s.hostReset font mem0) rfl rfl rfl (hfetch ▸ hd)
  exact ⟨_, _, hengine, rfl, congrArg (fun w => some ((0x200 : Word), w)) hfetch⟩

/-! ### Loading a program -/

/-- Settles O59: the bytes of the image stand from 0x200 on, where its length leaves room for them. -/
theorem loadProgram : Obligations.LoadProgram := by
  intro bytes s hm
  refine ⟨fun hle => ?_, fun hlt => if_pos hlt⟩
  have hb : 0x200 + bytes.length ≤ Memory.size := Nat.add_le_add_left hle 0x200
  refine ⟨_, if_neg (Nat.not_lt.2 hle), rfl, fun k hk => ?_, fun a ha => ?_⟩
  · refine (Memory.read_writeBytes bytes s.mem 0x200 _ hb hm).trans ?_
    simp [hk]
  · exact (Memory.read_writeBytes bytes s.mem 0x200 a hb hm).trans (if_neg (by omega))

/-- Settles O19: a load and a reset write canonical memory, and a reset puts pc and the stack in range. -/
theorem hostActionsKeepTheInvariant : Obligations.HostActionsKeepTheInvariant := by
  refine ⟨fun bytes s t hs h => ?_, fun s hs => hs.of_eq rfl rfl rfl rfl, fun font mem0 s => ?_⟩
  · by_cases hlen : bytes.length > 4096 - 0x200
    · exact nomatch (if_pos hlen).symm.trans h
    · cases (if_neg hlen).symm.trans h
      have hb : 0x200 + bytes.length ≤ Memory.size :=
        Nat.add_le_add_left (Nat.not_lt.1 hlen) 0x200
      exact { mem := Memory.wf_writeBytes bytes s.mem 0x200 (.inr hb) hs.mem
              pc := hs.pc, waitPc := hs.waitPc, stack := hs.stack }
  · have hreset := resetMeetsTheInvariant
    exact { mem := s.hostReset_mem_wf font mem0
            pc := hreset.pc, waitPc := hreset.waitPc, stack := hreset.stack }

end Sys2Proof.Machine
end


section
/-! PROOFS. DRW: the cells it toggles, its collision flag and its faults, and two equal draws in a row
(45_display.md R211 to R213). -/
namespace Sys2Proof.Machine

variable {s t u : State} {x y : Reg} {n : Rows}

theorem State.nodup_drawCells (s : State) (x y : Reg) (n : Rows) : (s.drawCells x y n).Nodup :=
  nodup_spriteCells _ _ _

/-- The state a DRW that completes leaves (45_display.md R212). -/
def State.drawn (s : State) (x y : Reg) (n : Rows) : State :=
  ((s.present (drawSprite s.fb (s.drawCells x y n)).1).setFlag
    (flagByte (drawSprite s.fb (s.drawCells x y n)).2)).advance

/-- A DRW that passes both checks completes. -/
theorem exec_drw_drawn (hr : s.reaches n.toNat = true) (hg : (s.drawCells x y n).all onGrid = true) :
    exec (.drw x y n) s = .next (s.drawn x y n) :=
  exec_drw_iff.2 (.inl ⟨hr, hg, rfl⟩)

/-- A DRW that completes found every set bit of its sprite on the grid. -/
theorem exec_drw_done (h : exec (.drw x y n) s = .next t) (ht : t.fault = none) :
    (s.drawCells x y n).all onGrid = true ∧ t = s.drawn x y n := by
  obtain ⟨-, hg, rfl⟩ | ⟨-, rfl⟩ | ⟨-, -, rfl⟩ := exec_drw_iff.1 h
  · exact ⟨hg, rfl⟩
  · exact nomatch ht
  · exact nomatch ht

/-- The drawing toggles the cells under the set bits and leaves the others. -/
theorem State.cell_drawn (hg : (s.drawCells x y n).all onGrid = true) {a b : Nat} (ha : a < 64)
    (hb : b < 32) :
    (s.drawn x y n).fb.cell a b = (s.fb.cell a b ^^ decide ((a, b) ∈ s.drawCells x y n)) :=
  cell_drawSprite s.fb _ (s.nodup_drawCells x y n) hg a b ha hb

/-- The drawing sets VF to whether a cell under a set bit was 1 (45_display.md R212). -/
theorem State.vf_drawn (hg : (s.drawCells x y n).all onGrid = true) :
    (s.drawn x y n).v[(15 : Reg)] =
      flagByte ((s.drawCells x y n).any fun p => s.fb.cell p.1 p.2) := by
  rw [← hit_drawSprite s.fb _ (s.nodup_drawCells x y n) hg]
  exact State.setFlag_vf _ _

/-- The collision, said over the set bits of the sprite (45_display.md R211, R212). -/
theorem any_drawCells_iff (s : State) (x y : Reg) (n : Rows) (P : Nat × Nat → Bool) :
    (s.drawCells x y n).any P = true ↔
      ∃ r < n.toNat, ∃ c < 8, (s.mem.read (s.base + r)).getLsbD (7 - c) = true ∧
        P (s.v[x].toNat + c, s.v[y].toNat + r) = true := by
  rw [List.any_eq_true]
  constructor
  · rintro ⟨⟨a, b⟩, hmem, hP⟩
    obtain ⟨r, hr, c, hc, hbit, rfl, rfl⟩ := (mem_drawCells s x y n a b).1 hmem
    exact ⟨r, hr, c, hc, hbit, hP⟩
  · rintro ⟨r, hr, c, hc, hbit, hP⟩
    exact ⟨_, (mem_drawCells s x y n _ _).2 ⟨r, hr, c, hc, hbit, rfl, rfl⟩, hP⟩

/-- A flag is 1 where its condition holds, and 0 where it does not. -/
theorem flagByte_of_iff {b : Bool} {P : Prop} (h : b = true ↔ P) :
    (P → flagByte b = 1) ∧ (¬ P → flagByte b = 0) := by
  cases b with
  | true => exact ⟨fun _ => rfl, fun hP => absurd (h.1 rfl) hP⟩
  | false => exact ⟨fun hP => (nomatch h.2 hP), fun _ => rfl⟩

/-- Settles O48: the drawing passes both checks, toggles its cells and sets VF to the collision. -/
theorem drwDraws : Obligations.DrwDraws := by
  intro s x y n hdata hgrid
  have hg := (drawCells_onGrid s x y n).2 hgrid
  have hexec := exec_drw_drawn ((s.reaches_eq_true_iff n.toNat).2 hdata) hg
  have hvf := State.vf_drawn hg
  obtain ⟨hone, hzero⟩ := flagByte_of_iff (any_drawCells_iff s x y n fun p => s.fb.cell p.1 p.2)
  refine ⟨s.drawn x y n, hexec, rfl, fun r hr c hc hbit => ?_, fun a ha b hb hno => ?_,
    fun hex => hvf.trans (hone hex), fun hno => hvf.trans (hzero hno), fun r hr => exec_keeps_reg hexec hr⟩
  · obtain ⟨hx, hy⟩ := hgrid r hr c hc hbit
    have hmem := (mem_drawCells s x y n _ _).2 ⟨r, hr, c, hc, hbit, rfl, rfl⟩
    rw [State.cell_drawn hg (by omega) (by omega), decide_eq_true hmem, Bool.xor_true]
  · have hnot : (a, b) ∉ s.drawCells x y n := fun hmem => hno ((mem_drawCells s x y n a b).1 hmem)
    rw [State.cell_drawn hg ha hb, decide_eq_false hnot, Bool.xor_false]

/-- Settles O49: each trap is the fault of its check, the data check first. -/
theorem drwTraps : Obligations.DrwTraps := by
  intro s x y n
  exact ⟨fun hn hdata => exec_raises (i := .drw x y n) (c := .dataOutOfRange) ⟨hn, hdata⟩,
    fun hdata hoff => exec_raises (i := .drw x y n) (c := .drawOutOfRange) ⟨hdata, hoff⟩⟩

/-! ### Two equal draws -/

/-- The second of two draws with the same coordinates draws the same cells: a draw leaves I and memory. -/
theorem drawCells_after_drw (h : exec (.drw x y n) s = .next t) (hx : t.v[x] = s.v[x])
    (hy : t.v[y] = s.v[y]) : t.drawCells x y n = s.drawCells x y n := by
  have hmem : t.mem = s.mem := exec_keeps_mem h (by simp)
  have hi : t.i = s.i := exec_keeps_i h (by simp) (by simp)
  simp only [State.drawCells, State.sprite, State.getV, State.base, hmem, hi, hx, hy]

/-- Where the first draw is on the grid, the second of two equal draws hits exactly where a cell under a
set bit was 0 before the first. -/
theorem any_cell_after_drw (hg : (s.drawCells x y n).all onGrid = true) :
    ((s.drawCells x y n).any fun p => (s.drawn x y n).fb.cell p.1 p.2) =
      (s.drawCells x y n).any fun p => !s.fb.cell p.1 p.2 := by
  rw [Bool.eq_iff_iff, List.any_eq_true, List.any_eq_true]
  refine exists_congr fun p => and_congr_right fun hp => ?_
  have hgrid := List.all_eq_true.1 hg p hp
  simp only [onGrid, Bool.and_eq_true, decide_eq_true_eq] at hgrid
  rw [State.cell_drawn hg (by omega) (by omega), decide_eq_true hp, Bool.xor_true]

/-- Settles O50: the second draw toggles the cells of the first, so each cell is as it was. -/
theorem drawingTwiceRestores : Obligations.DrawingTwiceRestores := by
  intro s t u x y n _ h ht h' hu hx hy
  have hcells := drawCells_after_drw h hx hy
  obtain ⟨hg, rfl⟩ := exec_drw_done h ht
  obtain ⟨hg', rfl⟩ := exec_drw_done h' hu
  have hvt := State.vf_drawn hg
  have hvu := State.vf_drawn hg'
  rw [hcells, any_cell_after_drw hg] at hvu
  obtain ⟨hone, hzero⟩ := flagByte_of_iff (any_drawCells_iff s x y n fun p => !s.fb.cell p.1 p.2)
  simp only [Bool.not_eq_true'] at hone hzero
  refine ⟨Framebuffer.ext_cell _ _ fun a b ha hb => ?_, fun hex => hvu.trans (hone hex),
    fun hno => hvu.trans (hzero hno), fun hblank => ?_⟩
  · rw [State.cell_drawn hg' ha hb, hcells, State.cell_drawn hg ha hb, Bool.xor_assoc, Bool.xor_self,
      Bool.xor_false]
  · have hnone : ∀ P : Nat × Nat → Bool, (s.drawCells x y n).any P = false := by
      intro P
      rw [← Bool.not_eq_true, any_drawCells_iff]
      rintro ⟨r, hr, c, hc, hbit, -⟩
      rw [hblank r hr (7 - c) (by omega)] at hbit
      exact nomatch hbit
    exact ⟨hvt.trans (congrArg flagByte (hnone _)), hvu.trans (congrArg flagByte (hnone _))⟩

/-- The counterexample of log entry 13: columns 0 to 3 of every row are 1, and I, V0 and V1 are 0, where
FONT has the row 0xF0. -/
def solidState : State := { State.reset with fb := Vector.replicate 32 0xF }

/-- Refutes O51: every cell under the row 0xF0 is 1 in `solidState`, so the first draw turns them all to 0
and the second collides with nothing, though the sprite has set bits. -/
theorem not_secondDrawCollidesIffTheSpriteHasASetBit :
    ¬ Obligations.SecondDrawCollidesIffTheSpriteHasASetBit := by
  intro h
  have hfirst : exec (.drw 0 1 1) solidState = .next (solidState.drawn 0 1 1) :=
    exec_drw_drawn (by decide) (by decide)
  have hsecond : exec (.drw 0 1 1) (solidState.drawn 0 1 1) =
      .next ((solidState.drawn 0 1 1).drawn 0 1 1) := exec_drw_drawn (by decide) (by decide)
  have hvf : ((solidState.drawn 0 1 1).drawn 0 1 1).v[15] = 1 :=
    (h solidState _ _ 0 1 1 rfl hfirst rfl hsecond rfl (by decide) (by decide)).2
      ⟨0, by decide, 7, by decide, by decide⟩
  exact absurd hvf (by decide)

end Sys2Proof.Machine
end


section
/-! PROOFS. The remaining instructions one by one: CALL and RET, SYS, 9XY0, SHR, RND, FX1E, the key skips,
FX18 and FX0A (41_flow.md, 42_skip.md, 43_alu.md, 44_index_memory.md, 46_timers_keys.md). -/
namespace Sys2Proof.Machine

variable {s : State}

/-! ### Control transfer -/

/-- Settles O28: the push, or the fault of its check. -/
theorem callPushes : Obligations.CallPushes := by
  intro nnn s
  refine ⟨fun hsp => ?_, fun hsp => exec_raises (i := .call nnn) (c := .stackOverflow) hsp⟩
  refine ⟨_, exec_call_iff.2 (.inl ⟨hsp, rfl⟩), rfl, fun j => ?_, rfl, toNat_zext16 nnn⟩
  refine (Vector.getElem_set hsp j.isLt).trans ?_
  simp [eq_comm]

/-- Settles O29: the pop, or the fault of its check. -/
theorem retPops : Obligations.RetPops := by
  intro s
  refine ⟨fun j hj => ?_, fun hsp => exec_raises (i := .ret) (c := .stackUnderflow) hsp⟩
  have hpos : 0 < s.sp.val := hj ▸ j.val.succ_pos
  have htop : s.top hpos = s.stack[j] := by simp [State.top, hj]
  refine ⟨_, exec_ret_iff.2 (.inl ⟨hpos, rfl⟩), htop ▸ rfl, ?_⟩
  exact Nat.sub_eq_of_eq_add hj

/-- Settles O26: SYS answers `advance`. -/
theorem sysOnlyAdvances : Obligations.SysOnlyAdvances := fun _ _ => rfl

/-- Settles O32: 9XY0 answers `skipIf` of a comparison of two registers. -/
theorem sneRegSkips : Obligations.SneRegSkips := by
  intro s x y
  exact congrArg Host.Outcome.next (s.skipIf_bne s.v[x] s.v[y])

/-! ### ALU and I -/

/-- The bit a shift right drops is the number's parity (43_alu.md R168). -/
theorem toNat_shrFlag (a : Byte) : (shrFlag a).toNat = a.toNat % 2 := by
  have hbit : (shrFlag a).toNat = a.toNat / 2 ^ 0 % 2 :=
    (toNat_flagByte _).trans (Nat.toNat_testBit a.toNat 0)
  rwa [pow_zero, Nat.div_one] at hbit

/-- A shift right by one bit halves (43_alu.md R168). -/
theorem toNat_ushiftRight_one (a : Byte) : (a >>> 1).toNat = a.toNat / 2 := by
  rw [BitVec.toNat_ushiftRight, Nat.shiftRight_eq_div_pow, pow_one]

/-- Settles O38: the halved byte and the bit shifted out, as numbers. -/
theorem shiftRight : Obligations.ShiftRight := by
  intro s x _
  exact toRegFlag_answers s x (toNat_shrFlag _) (toNat_ushiftRight_one _)

/-- Settles O40: CXNN answers `toReg` of the draw AND NN. -/
theorem rndMasksTheDraw : Obligations.RndMasksTheDraw := by
  intro s x nn
  exact toReg_answers_bits s x fun _ _ => BitVec.getLsbD_and

/-- The flag of FX1E is 1 exactly where the exact sum leaves memory (44_index_memory.md R192; D8). -/
theorem toNat_indexFlag (a : Word) (b : Byte) :
    (indexFlag a b).toNat = if 0xFFF < a.toNat + b.toNat then 1 else 0 := by
  rw [indexFlag, toNat_flagByte]
  by_cases h : 0xFFF < a.toNat + b.toNat <;> simp [h]

/-- Settles O42: the sum modulo 2^16, and the flag written last. -/
theorem addToIndex : Obligations.AddToIndex := by
  intro s x
  have hexec : exec (.addIX x) s = .next (((s.setI (BitVec.ofNat 16 (s.base + (s.getV x).toNat))).setFlag
      (indexFlag s.i (s.getV x))).advance) := rfl
  exact ⟨_, hexec, rfl, BitVec.toNat_ofNat _ _,
    (congrArg BitVec.toNat (State.setFlag_vf _ _)).trans (toNat_indexFlag s.i s.v[x]),
    fun r hr => exec_keeps_reg hexec hr⟩

/-! ### Keys and timers -/

/-- Where a skip leaves pc. -/
theorem State.skipIf_eq_ite (s : State) (b : Bool) :
    s.skipIf b = { s with pc := if b = true then s.pc + 4 else s.pc + 2 } := by
  cases b
  · rfl
  · rfl

/-- Where a skip on the complement leaves pc. -/
theorem State.skipIf_not_eq_ite (s : State) (b : Bool) :
    s.skipIf (!b) = { s with pc := if b = true then s.pc + 2 else s.pc + 4 } := by
  cases b
  · rfl
  · rfl

/-- Settles O52: below 16 the two skip on the key's bit and on its complement; above, their check fails. -/
theorem keySkips : Obligations.KeySkips := by
  intro s x
  refine ⟨fun k hk => ?_, fun hlt => ⟨exec_raises (i := .skp x) (c := .keyOutOfRange) hlt,
    exec_raises (i := .sknp x) (c := .keyOutOfRange) hlt⟩⟩
  have hle : ¬ (s.getV x).toNat > 15 := hk.trans_le (Nat.le_of_lt_succ k.isLt) |>.not_gt
  rw [← hk]
  exact ⟨exec_skp_iff.2 (.inr ⟨hle, (s.skipIf_eq_ite _).symm⟩),
    exec_sknp_iff.2 (.inr ⟨hle, (s.skipIf_not_eq_ite _).symm⟩)⟩

/-- Settles O54: FX18 answers `setSt` and `advance`, and the step reports the tick of the new ST. -/
theorem soundTimerMove : Obligations.SoundTimerMove := by
  intro s x
  refine ⟨rfl, fun hi => ?_⟩
  have hexec : exec (.ldStX x) s.sample = .next (s.sample.setSt s.v[x]).advance := rfl
  have hengine := engine_of_executes hi hexec
  rw [settle_next s (s.sample.setSt s.v[x]).advance _ hi.1] at hengine
  refine ⟨_, _, hengine, stepWith_of_engine hengine, toNat_tickTimer s.v[x], ?_⟩
  change (s.st != 0 && tickTimer s.v[x] == 0) = true ↔ _
  rw [Bool.and_eq_true, bne_iff_ne, beq_iff_eq, tickTimer_eq_zero_iff]

/-- FX0A with a key pressed takes it (46_timers_keys.md R236). -/
theorem exec_ldXK_of_anyKey (x : Reg) (h : s.anyKey = true) : exec (.ldXK x) s = .next (s.takeKey x) := by
  obtain ⟨t, ht⟩ := exec_answers (.ldXK x) s
  obtain ⟨-, rfl⟩ | ⟨hno, -⟩ := exec_ldXK_cases ht
  · exact ht
  · exact nomatch h.symm.trans hno

/-- Settles O55: the lowest pressed key is taken, or the key-wait entered. -/
theorem waitForKey : Obligations.WaitForKey := by
  intro s x
  refine ⟨fun k hk h hl => ?_, fun h0 => ?_⟩
  · have hany := anyKey_of_pressed s k h
    refine ⟨_, exec_ldXK_of_anyKey x hany, ?_, fun r => s.takeKey_v_of_pressed x r hk h hl⟩
    simp [State.takeKey, hany]
  · have hany : s.anyKey = false := State.anyKey_eq_false h0
    simp [exec, execLdXK, State.takeKey, hany]

end Sys2Proof.Machine
end
